-- ==== Sys2Proof/Word.lean ====
section
/-! DEFINITION. The widths of the block: host registers and command words are 32-bit unsigned (R9),
the STATUS fields are bytes (R39). Codec register values have the instance's own width and are held as
natural numbers below `2 ^ REG_DATA_BITS` (R9, R63; log 7). -/
namespace Sys2Proof

/-- A host register or command word: 32 bits, bit 0 the least significant (R8, R36, R90). -/
abbrev Word := BitVec 32

/-- A field of STATUS: 8 bits (R39). -/
abbrev Byte := BitVec 8

end Sys2Proof
end

