-- ==== Sys2Proof/Syntax.lean ====
section
/-! DEFINITION. The commands of the block (R97), one constructor per row of the opcode table, with the
operands their command word carries (R91 to R95). ARG0 and ARG1 are not part of the word: a command
reads the values latched at issue (R96, R121). -/
namespace Sys2Proof

/-- GRP (R92): the clock group of a coordinator command. The reserved value 3 is no group. -/
inductive Group where
  | bclk | lrclk | both
  deriving DecidableEq, Repr

/-- A codec instance (R30): codec 0 is the left one, codec 1 the right one. -/
inductive CodecId where
  | left | right
  deriving DecidableEq, Repr

/-- CSET (R93): a non-empty set of codecs. -/
inductive CodecSet where
  | l | r | lr
  deriving DecidableEq, Repr

/-- CH (R94): an attenuation channel. -/
inductive Channel where
  | ch0 | ch1
  deriving DecidableEq, Repr

/-- DESC (R95): an enumerated control. The reserved values 3 to 7 are no control. -/
inductive Control where
  | anticlip | dither | filter
  deriving DecidableEq, Repr

/-- The fourteen commands (R97). -/
inductive Instr where
  /-- PREPARE_ALL, OPC 0x01 (R151). -/
  | prepareAll (g : Group)
  /-- ENABLE_ALL, OPC 0x02 (R152). -/
  | enableAll (g : Group)
  /-- DISABLE_ALL, OPC 0x03 (R153). -/
  | disableAll (g : Group)
  /-- UNPREPARE_ALL, OPC 0x04 (R154). -/
  | unprepareAll (g : Group)
  /-- SELECT_MASTER, OPC 0x05 (R155); ARG0 is `target_hz`. -/
  | selectMaster
  /-- RELEASE_MASTER, OPC 0x06 (R156). -/
  | releaseMaster
  /-- APPLY_STARTUP, OPC 0x10 (R187). -/
  | applyStartup (cs : CodecSet)
  /-- SET_FMT_SYSCLK, OPC 0x11 (R188); ARG0 is `master_clock_hz`, ARG1 `format_code`. -/
  | setFmtSysclk (cs : CodecSet)
  /-- POWER_UP, OPC 0x12 (R189). -/
  | powerUp (cs : CodecSet)
  /-- POWER_DOWN, OPC 0x13 (R190). -/
  | powerDown (cs : CodecSet)
  /-- SET_VOLUME, OPC 0x14 (R191), on exactly one codec; ARG0 is `logical_value`. -/
  | setVolume (c : CodecId) (ch : Channel)
  /-- GET_VOLUME, OPC 0x15 (R192), on exactly one codec. -/
  | getVolume (c : CodecId) (ch : Channel)
  /-- READ_SYNCED, OPC 0x16 (R193). -/
  | readSynced (cs : CodecSet) (d : Control)
  /-- WRITE_SYNCED, OPC 0x17 (R194); ARG0 is `value`. -/
  | writeSynced (cs : CodecSet) (d : Control)
  deriving DecidableEq, Repr

end Sys2Proof
end

