-- ==== Sys2Proof/Config.lean ====
section
/-! DEFINITION. What an implementation fixes (R6) and the free values of the environment. A `Config` is
the parameter record of one block instance, fixed from attach to detach (R280); a state carries its own
(log 1), so every statement over states holds for every configuration. The opaque constants at the end are
the draws of the agents around the block once the data in State runs out: nothing can be proved about
their values (logs 3 and 4). -/
namespace Sys2Proof

/-- `NUM_CODECS` (R6): 1 is left only, 2 is left and right. -/
inductive NumCodecs where
  | one | two
  deriving DecidableEq, Repr

/-- `CLOCK_SHAPE` (R6, R22). -/
inductive ClockShape where
  | bclk3Lrclk3 | bclk3
  deriving DecidableEq, Repr

/-- `DIFF_MODE[c]` (R6, R34). -/
inductive DiffMode where
  | stereo | stereoReversed | monoLeft | monoRight
  deriving DecidableEq, Repr

/-- `EFF_WIDTH_16` (R6, R225): used by the host's negotiation only. -/
inductive EffWidth where
  | w16 | w32
  deriving DecidableEq, Repr

/-- `ENUM_DESC[d]` (R6, R185): where an enumerated control lives. -/
structure EnumDesc where
  addr  : Nat
  shift : Nat
  width : Nat
  deriving DecidableEq, Repr

/-- The parameters of one block instance, row by row of R6's table. Register addresses, masks and register
values are numbers (R9). The values R6 fixes outright (VOL_MAX, the master rates and so on) are constants of
`Machine/Params.lean`. -/
structure Config where
  /-- `NUM_CODECS`. -/
  numCodecs     : NumCodecs
  /-- `CLOCK_SHAPE`. -/
  clockShape    : ClockShape
  /-- `DIFF_MODE[0]`. -/
  diffLeft      : DiffMode
  /-- `DIFF_MODE[1]`. -/
  diffRight     : DiffMode
  /-- `REG_ADDR_BITS`. -/
  regAddrBits   : Nat
  /-- `REG_DATA_BITS`. -/
  regDataBits   : Nat
  /-- `VOL_LSB_BITS`. -/
  volLsbBits    : Nat
  /-- `LATCH_MASK`. -/
  latchMask     : Nat
  /-- `ADDR_ATT_LSB[0]`. -/
  addrAttLsb0   : Nat
  /-- `ADDR_ATT_MSB[0]`. -/
  addrAttMsb0   : Nat
  /-- `ADDR_ATT_LSB[1]`. -/
  addrAttLsb1   : Nat
  /-- `ADDR_ATT_MSB[1]`. -/
  addrAttMsb1   : Nat
  /-- `ADDR_FMTCTL`. -/
  addrFmtctl    : Nat
  /-- `PD_MASK`. -/
  pdMask        : Nat
  /-- `FMT_MASK`. -/
  fmtMask       : Nat
  /-- `VOL_INVERT[0][0]`. -/
  volInvertL0   : Bool
  /-- `VOL_INVERT[0][1]`. -/
  volInvertL1   : Bool
  /-- `VOL_INVERT[1][0]`. -/
  volInvertR0   : Bool
  /-- `VOL_INVERT[1][1]`. -/
  volInvertR1   : Bool
  /-- `STARTUP_BATCH`: (address, value) pairs in the order they are written. -/
  startupBatch  : List (Nat × Nat)
  /-- `CODEC_RESET_DEFAULTS`: (address, value) pairs; an address not listed has the value 0x000 (log 6). -/
  resetDefaults : List (Nat × Nat)
  /-- `ENUM_DESC[0]`, anti-clipping mode. -/
  enumAnticlip  : EnumDesc
  /-- `ENUM_DESC[1]`, dither mode. -/
  enumDither    : EnumDesc
  /-- `ENUM_DESC[2]`, digital filter response. -/
  enumFilter    : EnumDesc
  /-- `MUX_SRC_44K1`. -/
  muxSrc44k1    : Nat
  /-- `MUX_SRC_48K`. -/
  muxSrc48k     : Nat
  /-- `EFF_WIDTH_16`. -/
  effWidth16    : EffWidth
  /-- `FMT_CODE_16`. -/
  fmtCode16     : Nat
  /-- `FMT_CODE_32`. -/
  fmtCode32     : Nat
  /-- `WINDOW_BASE` (R83): where the platform puts the host window. -/
  windowBase    : Nat
  deriving DecidableEq, Repr

/-- The reference configuration (R6; 92_eei_decisions.md D36). It is the spec's own choice and no claim
about a chip. WINDOW_BASE has no reference value in the spec; 0 is a DESIGN CHOICE (log 11). -/
def Config.reference : Config where
  numCodecs     := .two
  clockShape    := .bclk3Lrclk3
  diffLeft      := .stereo
  diffRight     := .stereo
  regAddrBits   := 7
  regDataBits   := 9
  volLsbBits    := 5
  latchMask     := 0x020
  addrAttLsb0   := 0x00
  addrAttMsb0   := 0x01
  addrAttLsb1   := 0x02
  addrAttMsb1   := 0x03
  addrFmtctl    := 0x05
  pdMask        := 0x080
  fmtMask       := 0x03F
  volInvertL0   := true
  volInvertL1   := true
  volInvertR0   := true
  volInvertR1   := true
  startupBatch  :=
    [(0x00, 0x000), (0x01, 0x020), (0x02, 0x000), (0x03, 0x020), (0x04, 0x007), (0x05, 0x080)]
  resetDefaults := []
  enumAnticlip  := { addr := 0x08, shift := 0, width := 1 }
  enumDither    := { addr := 0x08, shift := 1, width := 2 }
  enumFilter    := { addr := 0x06, shift := 0, width := 3 }
  muxSrc44k1    := 0
  muxSrc48k     := 1
  effWidth16    := .w16
  fmtCode16     := 0x002
  fmtCode32     := 0x00A
  windowBase    := 0

/-- One answer of an external agent to the engine (log 3). Each kind of request reads the fields that
concern it and no other:
`ok` is success or failure (R61, R62, R66); a read of the plugged reference codec always succeeds (R61, R74);
`value` is what a transport read returns (R61), or the rate a `get_rate` of the host returns (R230);
`taken` says whether the codec took a write that the transport reports as failed (R76);
`extraMs` is how much longer than SETTLE_MS the settle wait lasts (R166). -/
structure Answer where
  ok      : Bool
  value   : Nat
  taken   : Bool
  extraMs : Nat
  deriving DecidableEq, Repr

/-- FREE VALUE (log 3): what the agents answer, at the n-th draw, once `env.answers` is used up; `none` is no
answer yet (R148). -/
opaque Config.lateAnswer : Nat → Option Answer

/-- FREE VALUE (log 4): whether the host (true) or the engine (false) moves, at the n-th draw, where both can
and `env.turns` is used up. -/
opaque Config.lateTurn : Nat → Bool

end Sys2Proof
end

