-- ==== Sys2Proof/WellFormed.lean ====
section
/-! DEFINITION. When a command is well formed for an instance: every codec it names is present (R99, R30).
The other legality conditions of R99 (GRP not 3, CSET not 0, one codec for the volume commands, DESC at
most 2) are built into the operand types of `Syntax.lean`. -/
namespace Sys2Proof

/-- `present(c)` (R30): codec 0 always, codec 1 exactly when NUM_CODECS = 2. -/
def NumCodecs.has : NumCodecs → CodecId → Bool
  | _, .left => true
  | .two, .right => true
  | .one, .right => false

/-- The codecs of a set, left before right (R93, R146). -/
def CodecSet.codecs : CodecSet → List CodecId
  | .l => [.left]
  | .r => [.right]
  | .lr => [.left, .right]

/-- The codecs a command names; the coordinator commands name none. -/
def Instr.codecs : Instr → List CodecId
  | .prepareAll _ => []
  | .enableAll _ => []
  | .disableAll _ => []
  | .unprepareAll _ => []
  | .selectMaster => []
  | .releaseMaster => []
  | .applyStartup cs => cs.codecs
  | .setFmtSysclk cs => cs.codecs
  | .powerUp cs => cs.codecs
  | .powerDown cs => cs.codecs
  | .setVolume c _ => [c]
  | .getVolume c _ => [c]
  | .readSynced cs _ => cs.codecs
  | .writeSynced cs _ => cs.codecs

/-- Every codec the command names is present (R99). -/
def Instr.wellFormed (n : NumCodecs) (i : Instr) : Bool :=
  i.codecs.all n.has

end Sys2Proof
end

