-- ==== Sys2Proof/Decode.lean ====
section
/-! DEFINITION. The command word: fields (R91 to R95), the match and mask table (R98), the decoder (R99,
R100), and the encoder written from the same tables. Decoding is total: a word is a command or is rejected
by the name of what is wrong with it. -/
namespace Sys2Proof

/-! ## Fields (R91) -/

/-- OPC, bits 7:0. -/
def fieldOpc (w : Word) : BitVec 8 := w.extractLsb' 0 8

/-- GRP, bits 9:8. -/
def fieldGrp (w : Word) : BitVec 2 := w.extractLsb' 8 2

/-- CSET, bits 11:10. -/
def fieldCset (w : Word) : BitVec 2 := w.extractLsb' 10 2

/-- CH, bit 12. -/
def fieldCh (w : Word) : BitVec 1 := w.extractLsb' 12 1

/-- DESC, bits 15:13. -/
def fieldDesc (w : Word) : BitVec 3 := w.extractLsb' 13 3

/-- RSV, bits 31:16, must be 0. -/
def fieldRsv (w : Word) : BitVec 16 := w.extractLsb' 16 16

/-- GRP (R92); 3 is reserved. -/
def groupOf (v : BitVec 2) : Option Group :=
  if v = 0 then some .bclk else if v = 1 then some .lrclk else if v = 2 then some .both else none

/-- CSET (R93): CMD[10] selects codec 0, CMD[11] codec 1; 0 is reserved. -/
def codecSetOf (v : BitVec 2) : Option CodecSet :=
  if v = 1 then some .l else if v = 2 then some .r else if v = 3 then some .lr else none

/-- CSET of a volume command: exactly one codec (R99). -/
def oneCodecOf (v : BitVec 2) : Option CodecId :=
  if v = 1 then some .left else if v = 2 then some .right else none

/-- CH (R94). -/
def channelOf (v : BitVec 1) : Channel :=
  if v = 0 then .ch0 else .ch1

/-- DESC (R95); 3 to 7 are reserved. -/
def controlOf (v : BitVec 3) : Option Control :=
  if v = 0 then some .anticlip else if v = 1 then some .dither else if v = 2 then some .filter else none

/-! ## The table of R98 -/

/-- Which command a row of the table stands for. -/
inductive Opcode where
  | prepareAll | enableAll | disableAll | unprepareAll | selectMaster | releaseMaster
  | applyStartup | setFmtSysclk | powerUp | powerDown | setVolume | getVolume | readSynced | writeSynced
  deriving DecidableEq, Repr

/-- One row of R98: a word w selects the command when `w & mask = pattern`. -/
structure Row where
  op      : Opcode
  pattern : Word
  mask    : Word
  deriving DecidableEq, Repr

/-- The match and mask table (R98), in its order. -/
def opcodeRows : List Row :=
  [ { op := .prepareAll,    pattern := 0x00000001, mask := 0xFFFFFCFF },
    { op := .enableAll,     pattern := 0x00000002, mask := 0xFFFFFCFF },
    { op := .disableAll,    pattern := 0x00000003, mask := 0xFFFFFCFF },
    { op := .unprepareAll,  pattern := 0x00000004, mask := 0xFFFFFCFF },
    { op := .selectMaster,  pattern := 0x00000005, mask := 0xFFFFFFFF },
    { op := .releaseMaster, pattern := 0x00000006, mask := 0xFFFFFFFF },
    { op := .applyStartup,  pattern := 0x00000010, mask := 0xFFFFF3FF },
    { op := .setFmtSysclk,  pattern := 0x00000011, mask := 0xFFFFF3FF },
    { op := .powerUp,       pattern := 0x00000012, mask := 0xFFFFF3FF },
    { op := .powerDown,     pattern := 0x00000013, mask := 0xFFFFF3FF },
    { op := .setVolume,     pattern := 0x00000014, mask := 0xFFFFE3FF },
    { op := .getVolume,     pattern := 0x00000015, mask := 0xFFFFE3FF },
    { op := .readSynced,    pattern := 0x00000016, mask := 0xFFFF13FF },
    { op := .writeSynced,   pattern := 0x00000017, mask := 0xFFFF13FF } ]

/-- Does the word select the row? -/
def Row.selects (r : Row) (w : Word) : Bool := w &&& r.mask == r.pattern

/-! ## Decoding (R99, R100) -/

/-- Why a word is illegal (R100). All of these end the command with ILLEGAL_COMMAND (R124, R253). -/
inductive Illegal where
  /-- OPC is outside the opcode map. -/
  | unassignedOpcode
  /-- A field the command does not use, or RSV, is nonzero. -/
  | unusedFieldSet
  /-- GRP = 3. -/
  | reservedGroup
  /-- CSET = 0. -/
  | emptyCodecSet
  /-- CSET does not name exactly one codec on SET_VOLUME or GET_VOLUME. -/
  | notOneCodec
  /-- DESC is 3 to 7. -/
  | reservedControl
  /-- CSET names an absent codec. -/
  | absentCodec
  deriving DecidableEq, Repr

/-- The fields of a row's command, read from the word; `field_legal` of R99 but for codec presence. -/
def readFields (op : Opcode) (w : Word) : Except Illegal Instr :=
  let group (k : Group → Instr) : Except Illegal Instr :=
    match groupOf (fieldGrp w) with
    | some g => .ok (k g)
    | none => .error .reservedGroup
  let codecs (k : CodecSet → Instr) : Except Illegal Instr :=
    match codecSetOf (fieldCset w) with
    | some cs => .ok (k cs)
    | none => .error .emptyCodecSet
  let volume (k : CodecId → Channel → Instr) : Except Illegal Instr :=
    match oneCodecOf (fieldCset w) with
    | some c => .ok (k c (channelOf (fieldCh w)))
    | none => .error .notOneCodec
  let synced (k : CodecSet → Control → Instr) : Except Illegal Instr :=
    match codecSetOf (fieldCset w), controlOf (fieldDesc w) with
    | some cs, some d => .ok (k cs d)
    | none, _ => .error .emptyCodecSet
    | some _, none => .error .reservedControl
  match op with
  | .prepareAll => group .prepareAll
  | .enableAll => group .enableAll
  | .disableAll => group .disableAll
  | .unprepareAll => group .unprepareAll
  | .selectMaster => .ok .selectMaster
  | .releaseMaster => .ok .releaseMaster
  | .applyStartup => codecs .applyStartup
  | .setFmtSysclk => codecs .setFmtSysclk
  | .powerUp => codecs .powerUp
  | .powerDown => codecs .powerDown
  | .setVolume => volume .setVolume
  | .getVolume => volume .getVolume
  | .readSynced => synced .readSynced
  | .writeSynced => synced .writeSynced

/-- Is OPC one of the assigned values (R97)? Used only to name the rejection. -/
def opcAssigned (w : Word) : Bool :=
  opcodeRows.any fun r => fieldOpc r.pattern == fieldOpc w

/-- `decode(w)` of R99 on an instance with `n` codecs. -/
def decode (n : NumCodecs) (w : Word) : Except Illegal Instr :=
  match opcodeRows.find? (fun r => r.selects w) with
  | none => .error (if opcAssigned w then .unusedFieldSet else .unassignedOpcode)
  | some r =>
    match readFields r.op w with
    | .error e => .error e
    | .ok i => if i.wellFormed n then .ok i else .error .absentCodec

/-! ## Encoding, from the same tables (R91 to R98) -/

/-- The value of GRP for a group (R92). -/
def Group.code : Group → BitVec 2
  | .bclk => 0
  | .lrclk => 1
  | .both => 2

/-- The value of CSET for a codec set (R93). -/
def CodecSet.code : CodecSet → BitVec 2
  | .l => 1
  | .r => 2
  | .lr => 3

/-- The value of CSET that names one codec (R93). -/
def CodecId.cset : CodecId → BitVec 2
  | .left => 1
  | .right => 2

/-- The value of CH (R94). -/
def Channel.code : Channel → BitVec 1
  | .ch0 => 0
  | .ch1 => 1

/-- The value of DESC (R95). -/
def Control.code : Control → BitVec 3
  | .anticlip => 0
  | .dither => 1
  | .filter => 2

/-- The command word of R91 from its fields, RSV being 0. -/
def packWord (desc : BitVec 3) (ch : BitVec 1) (cset grp : BitVec 2) (opc : BitVec 8) : Word :=
  (0 : BitVec 16) ++ desc ++ ch ++ cset ++ grp ++ opc

/-- The word of a command; a field the command does not use is 0 (R98). -/
def encode : Instr → Word
  | .prepareAll g => packWord 0 0 0 g.code 0x01
  | .enableAll g => packWord 0 0 0 g.code 0x02
  | .disableAll g => packWord 0 0 0 g.code 0x03
  | .unprepareAll g => packWord 0 0 0 g.code 0x04
  | .selectMaster => packWord 0 0 0 0 0x05
  | .releaseMaster => packWord 0 0 0 0 0x06
  | .applyStartup cs => packWord 0 0 cs.code 0 0x10
  | .setFmtSysclk cs => packWord 0 0 cs.code 0 0x11
  | .powerUp cs => packWord 0 0 cs.code 0 0x12
  | .powerDown cs => packWord 0 0 cs.code 0 0x13
  | .setVolume c ch => packWord 0 ch.code c.cset 0 0x14
  | .getVolume c ch => packWord 0 ch.code c.cset 0 0x15
  | .readSynced cs d => packWord d.code 0 cs.code 0 0x16
  | .writeSynced cs d => packWord d.code 0 cs.code 0 0x17

/-! ## The host's view of the decoder -/

/-- The word of an instruction whose low `nbits` bits are those of `w`, every bit above them 0. -/
def tableWord (nbits w : Nat) : Word :=
  BitVec.ofNat 32 (w % 2 ^ min nbits 32)

/-- What the decoder reads from a word numbered as the opcode table numbers it. A command is one 32-bit word
written whole to CMD (R90), so there is no byte order to undo. The table does not say how many codecs the
instance has; two is taken, which decodes every word that either instance decodes (log 16). -/
def decodeTableWord (nbits w : Nat) : Option Instr :=
  match decode .two (tableWord nbits w) with
  | .ok i => some i
  | .error _ => none

end Sys2Proof
end

