-- ==== Sys2Proof/Machine/Bits.lean ====
section
/-! DEFINITION. Bit fields of codec register values (R8, R9). A register value is a natural number; bit i is
`Nat.testBit v i`. -/
namespace Sys2Proof.Machine

/-- `v[hi:lo]`, the `width` bits of v from bit `lo` up, as a number (R8). -/
def bitField (v lo width : Nat) : Nat := (v >>> lo) % 2 ^ width

/-- `v & ~m` (R8): v with the bits of m cleared; the other bits are v's own. -/
def clearBits (v m : Nat) : Nat := v ^^^ (v &&& m)

/-- Is m a single bit? -/
def isSingleBit (m : Nat) : Bool := m != 0 && m == 2 ^ Nat.log2 m

/-- Is m within the bits of `mask`? -/
def withinMask (m mask : Nat) : Bool := m &&& mask == m

end Sys2Proof.Machine
end

