-- ==== Sys2Proof/Machine/Params.lean ====
section
/-! DEFINITION. The values R6 fixes, the parameters by index, and the constraints an instance must satisfy
(R7). -/
namespace Sys2Proof.Machine

/-! ## Values R6 fixes -/

/-- `VOL_MAX`, the largest logical attenuation value. -/
def volMax : Nat := 1023

/-- `VOL_BITS`, the width of the raw attenuation value. -/
def volBits : Nat := 10

/-- `MCLK_44K1` in Hz. -/
def mclk44k1 : Nat := 22579200

/-- `MCLK_48K` in Hz. -/
def mclk48k : Nat := 24576000

/-- `SETTLE_MS`, the least settle wait in ms. -/
def settleMs : Nat := 20

/-- `PLL_MULT` (R230). -/
def pllMult : Nat := 31

/-- `MULT_DIV` (R230). -/
def multDiv : Nat := 8

/-- `ENUM_COUNT[d]`: how many values of a control are legal. -/
def enumCount : Control → Nat
  | .anticlip => 2
  | .dither => 4
  | .filter => 5

/-! ## Parameters by index -/

/-- `present(c)` (R30). -/
def present (cfg : Config) (c : CodecId) : Bool := cfg.numCodecs.has c

/-- `DIFF_MODE[c]`. -/
def diffMode (cfg : Config) : CodecId → DiffMode
  | .left => cfg.diffLeft
  | .right => cfg.diffRight

/-- `ADDR_ATT_LSB[ch]`. -/
def addrAttLsb (cfg : Config) : Channel → Nat
  | .ch0 => cfg.addrAttLsb0
  | .ch1 => cfg.addrAttLsb1

/-- `ADDR_ATT_MSB[ch]`. -/
def addrAttMsb (cfg : Config) : Channel → Nat
  | .ch0 => cfg.addrAttMsb0
  | .ch1 => cfg.addrAttMsb1

/-- `VOL_INVERT[c][ch]`. -/
def volInvert (cfg : Config) : CodecId → Channel → Bool
  | .left, .ch0 => cfg.volInvertL0
  | .left, .ch1 => cfg.volInvertL1
  | .right, .ch0 => cfg.volInvertR0
  | .right, .ch1 => cfg.volInvertR1

/-- `ENUM_DESC[d]`. -/
def enumDesc (cfg : Config) : Control → EnumDesc
  | .anticlip => cfg.enumAnticlip
  | .dither => cfg.enumDither
  | .filter => cfg.enumFilter

/-- `CODEC_RESET_DEFAULTS[a]`; an address the list does not name has the value 0x000 (log 6). -/
def resetDefault (cfg : Config) (a : Nat) : Nat :=
  match cfg.resetDefaults.find? (fun p => p.1 == a) with
  | some p => p.2
  | none => 0

/-- The width of the MSB value field, `VOL_BITS - VOL_LSB_BITS`. -/
def volMsbBits (cfg : Config) : Nat := volBits - cfg.volLsbBits

/-- `STARTUP_FMTCTL` (R186): the value of the last `ADDR_FMTCTL` write of the startup batch (0 where there is
none, which R7 excludes). -/
def startupFmtctl (cfg : Config) : Nat :=
  match cfg.startupBatch.reverse.find? (fun p => p.1 == cfg.addrFmtctl) with
  | some p => p.2
  | none => 0

/-! ## Parameter constraints (R7) -/

/-- Below `2^REG_ADDR_BITS`. -/
def addrInRange (cfg : Config) (a : Nat) : Bool := decide (a < 2 ^ cfg.regAddrBits)

/-- Below `2^REG_DATA_BITS`. -/
def valueInRange (cfg : Config) (v : Nat) : Bool := decide (v < 2 ^ cfg.regDataBits)

/-- The five addresses R7 wants pairwise distinct: the four attenuation addresses and `ADDR_FMTCTL`. -/
def fixedAddrs (cfg : Config) : List Nat :=
  [cfg.addrAttLsb0, cfg.addrAttMsb0, cfg.addrAttLsb1, cfg.addrAttMsb1, cfg.addrFmtctl]

/-- The three controls. -/
def allControls : List Control := [.anticlip, .dither, .filter]

/-- Ranges of R6 and widths: `REG_ADDR_BITS` in 1..8, `VOL_LSB_BITS` in 1..9 (so below `VOL_BITS`), and the
MSB value field with the latch bit fits the register (R7). That the LSB field fits too is DEDUCED from
`zext_REG_DATA_BITS` of R180 (log 8). -/
def widthsOk (cfg : Config) : Bool :=
  decide (1 ≤ cfg.regAddrBits) && decide (cfg.regAddrBits ≤ 8) &&
  decide (1 ≤ cfg.volLsbBits) && decide (cfg.volLsbBits < volBits) &&
  decide (volBits - cfg.volLsbBits + 1 ≤ cfg.regDataBits) && decide (cfg.volLsbBits ≤ cfg.regDataBits)

/-- `LATCH_MASK` is a single bit above the MSB value field, `PD_MASK` a single bit disjoint from `FMT_MASK`
(R7). That the three masks are bits of a register is DEDUCED from R62 (log 8). -/
def masksOk (cfg : Config) : Bool :=
  isSingleBit cfg.latchMask && decide (volBits - cfg.volLsbBits ≤ Nat.log2 cfg.latchMask) &&
  isSingleBit cfg.pdMask && cfg.pdMask &&& cfg.fmtMask == 0 &&
  valueInRange cfg cfg.latchMask && valueInRange cfg cfg.pdMask && valueInRange cfg cfg.fmtMask

/-- All addresses are in range, the five fixed ones are pairwise distinct, and no enumerated control shares
one of them (R7). -/
def addrsOk (cfg : Config) : Bool :=
  (fixedAddrs cfg).all (addrInRange cfg) && decide (fixedAddrs cfg).Nodup &&
  allControls.all (fun d => addrInRange cfg (enumDesc cfg d).addr &&
    !(fixedAddrs cfg).contains (enumDesc cfg d).addr) &&
  cfg.startupBatch.all (fun p => addrInRange cfg p.1) &&
  cfg.resetDefaults.all (fun p => addrInRange cfg p.1)

/-- Each control's field holds its legal values and lies in the register (R7). -/
def enumsOk (cfg : Config) : Bool :=
  allControls.all fun d =>
    decide (enumCount d ≤ 2 ^ (enumDesc cfg d).width) &&
    decide ((enumDesc cfg d).shift + (enumDesc cfg d).width ≤ cfg.regDataBits)

/-- The two mux selectors differ, and the format codes lie within `FMT_MASK` (R7). -/
def codesOk (cfg : Config) : Bool :=
  cfg.muxSrc44k1 != cfg.muxSrc48k &&
  withinMask cfg.fmtCode16 cfg.fmtMask && withinMask cfg.fmtCode32 cfg.fmtMask

/-- Every write of `msb` in the batch has the latch bit and comes after a write of `lsb` (R7, R184). -/
def latchOrderOk (latch lsb msb : Nat) : Bool → List (Nat × Nat) → Bool
  | _, [] => true
  | seen, (a, v) :: rest =>
    (a != msb || (seen && v &&& latch != 0)) && latchOrderOk latch lsb msb (seen || a == lsb) rest

/-- The startup batch: values in range, a last `ADDR_FMTCTL` write with `PD_MASK` set, attenuation MSB writes
latched and after their LSB write; the reset defaults in range (R7, R184, R186). -/
def batchOk (cfg : Config) : Bool :=
  cfg.startupBatch.all (fun p => valueInRange cfg p.2) &&
  cfg.resetDefaults.all (fun p => valueInRange cfg p.2) &&
  cfg.startupBatch.any (fun p => p.1 == cfg.addrFmtctl) && startupFmtctl cfg &&& cfg.pdMask != 0 &&
  latchOrderOk cfg.latchMask cfg.addrAttLsb0 cfg.addrAttMsb0 false cfg.startupBatch &&
  latchOrderOk cfg.latchMask cfg.addrAttLsb1 cfg.addrAttMsb1 false cfg.startupBatch

/-- The constraints an instance must satisfy (R7); one that does not is not created (R283). -/
def configOk (cfg : Config) : Bool :=
  widthsOk cfg && masksOk cfg && addrsOk cfg && enumsOk cfg && codesOk cfg && batchOk cfg

end Sys2Proof.Machine
end

