-- ==== Sys2Proof/Machine/State.lean ====
section
/-! DEFINITION. The state of the machine: one block instance (R20 to R46), the parameters it was attached
with (R6), and the agents around it (R5): host, clock tree, codec transport with the reference codec model
(R69), settle timer. Plain data. -/
namespace Sys2Proof.Machine

/-! ## Clocks (R21 to R29) -/

/-- The six consumer clocks, ids 0 to 5 (R21). -/
inductive Consumer where
  | bclkHost | bclkL | bclkR | lrclkHost | lrclkL | lrclkR
  deriving DecidableEq, Repr

/-- Every clock a request or STATUS names (R21): a consumer, the gate (6) or the mux (7). -/
inductive Clock where
  | consumer (k : Consumer)
  | gate
  | mux
  deriving DecidableEq, Repr

/-- The two flags of one consumer clock (R24). -/
structure Lifecycle where
  prepared : Bool
  enabled  : Bool
  deriving DecidableEq, Repr

/-- The master oscillators the mux selects (R28, R161), by rate family: their selector numbers are
parameters (R67). -/
inductive MasterSource where
  | src44k1 | src48k
  deriving DecidableEq, Repr

/-- The clock lifecycle state (R24 to R29). `muxSel = none` is the spec's `⊥`: no selection is known. -/
structure ClockState where
  bclkHost           : Lifecycle
  bclkL              : Lifecycle
  bclkR              : Lifecycle
  lrclkHost          : Lifecycle
  lrclkL             : Lifecycle
  lrclkR             : Lifecycle
  gatePrepared       : Bool
  gateEnabled        : Bool
  masterClockEnabled : Bool
  muxSel             : Option MasterSource
  settlePending      : Bool
  deriving DecidableEq, Repr

/-! ## Codecs (R30 to R33) -/

/-- `S.pd[c]` (R31). -/
inductive Power where
  | unknown | down | up
  deriving DecidableEq, Repr

/-- A register file held sparsely: (address, content) pairs, addresses strictly rising, no pair equal to what
an unlisted address reads as (`Memory.wf` of Machine/Memory.lean). An unlisted address reads as its reset default
(R46, log 6). -/
abbrev Memory (α : Type) := List (Nat × α)

/-- The block's state for one codec (R31 to R33). A shadow entry `none` is the spec's `⊥`. -/
structure CodecState where
  pd          : Power
  sysclk      : Word
  sysclkValid : Bool
  shadow      : Memory (Option Nat)
  deriving DecidableEq, Repr

/-! ## Engine (R35) -/

/-- `S.cur`: the command word and operands latched at issue (R35, R121). -/
structure Latched where
  cmd  : Word
  arg0 : Word
  arg1 : Word
  deriving DecidableEq, Repr

/-- Where a command is: at its start, before its first check; in its guard loops; or past its checks (R10, R127). -/
inductive Phase where
  | start | guards | body
  deriving DecidableEq, Repr

/-- `S.step` (R35): which element of its list, or of its guard loops, the command is at, which request of that element is next, and
the local variables of its pseudocode (log 22): `up` of R153 and R156, the values read so far of R192 and
R193, `first` of R190. -/
structure Position where
  phase : Phase
  elem  : Nat
  req   : Nat
  up    : Bool
  vals  : List Nat
  first : Option CodecId
  deriving DecidableEq, Repr

/-- The engine state that plays the role of a program counter (R35); `step = none` is no command. -/
structure Engine where
  busy : Bool
  cur  : Latched
  step : Option Position
  deriving DecidableEq, Repr

/-! ## Host registers (R36 to R44) -/

/-- The result codes (R251); the block never produces any other. -/
inductive Code where
  | ok | illegalCommand | invalidOperand | sequenceError | stateUnknown
  | prepareError | enableError | rateSetError | unsupportedMasterRate
  | registerWriteError | registerReadError | desyncError
  deriving DecidableEq, Repr

/-- The stored host registers. STATUS.BUSY is `Engine.busy`; CLKSTATE, CODECSTATE, SYSCLK_L and SYSCLK_R are
computed at the read (R41 to R43). -/
structure Window where
  cmd           : Word
  arg0          : Word
  arg1          : Word
  code          : Code
  infoId        : Byte
  infoAddr      : Byte
  data          : Word
  glitchRisk    : Bool
  teardownFault : Bool
  deriving DecidableEq, Repr

/-- A register of the host window (R36); offsets 0x28 to 0x3C are reserved. -/
inductive WindowReg where
  | cmd | arg0 | arg1 | status | data | clkstate | codecstate | sysclkL | sysclkR | flags | reserved
  deriving DecidableEq, Repr

/-- The one host write that waits for the engine to be idle (R122). -/
structure HeldWrite where
  reg   : WindowReg
  value : Word
  deriving DecidableEq, Repr

/-! ## Event history (R84) -/

/-- The operations of the clock-request port the block issues (R66, R67). -/
inductive ClkOp where
  | prepare | enable | disable | unprepare
  | setParentSource (src : Nat)
  deriving DecidableEq, Repr

/-- One entry of the history (R84): a request with its operands and its answer, or the start or end of a
settle wait with the time stamp in ms (R294). -/
inductive Event where
  | clkReq (op : ClkOp) (k : Clock) (ok : Bool)
  | memRead (c : CodecId) (a : Nat) (answer : Option Nat)
  | memWrite (c : CodecId) (a v : Nat) (ok : Bool)
  | settleStart (atMs : Nat)
  | settleEnd (atMs : Nat)
  deriving DecidableEq, Repr

/-! ## The agents around the block (R5) -/

/-- The reference codec model of one codec (R69). -/
structure RefCodec where
  reg      : Memory Nat
  holdLsb0 : Nat
  holdLsb1 : Nat
  active0  : Option Nat
  active1  : Option Nat
  deriving DecidableEq, Repr

/-- The reference codec models, and whether they are plugged into the transport (R61, R74; log 12). -/
structure RefModel where
  plugged : Bool
  left    : RefCodec
  right   : RefCodec
  deriving DecidableEq, Repr

/-- What the agents will do: the model's own fields (logs 3 and 4). Each entry of `answers` is what an engine
step that waits on an agent gets; `none` is no answer yet (R148). Each entry of `turns` says whether the host
(true) or the engine moves at a step of a busy block. -/
structure Environment where
  answers : List (Option Answer)
  turns   : List Bool
  tick    : Nat
  deriving DecidableEq, Repr

/-- The host's session state (R234). -/
inductive Session where
  | closed | paramsNegotiated | streaming
  deriving DecidableEq, Repr

/-- What a host report names as failed: a stage of `on_hw_params` (R229), or the attach before any session (R221). -/
inductive Stage where
  | attach | negotiate | codecFmt | topology | master | rates | clocks | powerUp
  deriving DecidableEq, Repr

/-- A clock that the host's own clock-tree requests name (R230, R231): the oscillator input, the PLL stage, the
multiplier stage, or a consumer clock. -/
inductive TreeNode where
  | oscillator | pll | multiplier
  | clock (k : Consumer)
  deriving DecidableEq, Repr

/-- One of the host's own clock-tree requests with its answer (R66, R230, R231): `get_parent`, which finds a parent
or does not; `get_rate`; `set_rate`. -/
inductive TreeRequest where
  | getParent (of : TreeNode) (found : Bool)
  | getRate (of : TreeNode) (answer : Option Nat)
  | setRate (of : TreeNode) (hz : Nat) (ok : Bool)
  deriving DecidableEq, Repr

/-- The errors of the host side, which STATUS never carries (R223, R230, R231, R264, R283). A TopologyError names the
clock whose ancestor is missing, a host-side RateSetError the clock whose `set_rate` was refused. -/
inductive HostError where
  | configError | unsupportedFormat | unsupportedSampleRate
  | topologyError (child : TreeNode)
  | rateSetError (of : TreeNode)
  deriving DecidableEq, Repr

/-- What the host reports of a failed action (R232): the STATUS of the command, or a host-side error. -/
inductive Report where
  | status (w : Word)
  | hostError (e : HostError)
  deriving DecidableEq, Repr

/-- A failure as the host reports it (R232): the failing stage with its report. -/
structure Failure where
  stage  : Stage
  report : Report
  deriving DecidableEq, Repr

/-- The serial format of the interface (R227): interleaved, two channels. -/
inductive SerialFormat where
  | i2sTwoChannel
  deriving DecidableEq, Repr

/-- Who drives the bit and frame clocks (R227). -/
inductive ClockRole where
  | master | slave
  deriving DecidableEq, Repr

/-- The fixed conventions of bit-clock polarity and frame-sync phase (R227): one for width 16, one for widths 24 and
32. What each one is, the source does not say (log 30). -/
inductive EdgeConvention where
  | forWidth16 | forWidth24And32
  deriving DecidableEq, Repr

/-- The host-side interface format (R227). It does not reach the block. -/
structure HostFormat where
  serial     : SerialFormat
  bitClock   : ClockRole
  frameClock : ClockRole
  edges      : EdgeConvention
  deriving DecidableEq, Repr

/-- What a negotiation yields (R224 to R227): the master rate, the bit-clock and frame-clock rates, the host-side
format, and the codec-side format code with the codec's role. -/
structure Plan where
  masterHz     : Nat
  bitClockHz   : Nat
  frameClockHz : Nat
  hostFormat   : HostFormat
  fmtCode      : Nat
  codecRole    : ClockRole
  deriving DecidableEq, Repr

/-- What the platform resolves at an attach (R280, R283): the clocks it has a handle for and the codecs it can
bind. -/
structure Binding where
  handles : List Clock
  codecs  : List CodecId
  deriving DecidableEq, Repr

/-- What a host program looks at when it leaves actions out: whether its last awaited command or clock-tree request
succeeded or failed, whether the topology step has run since the attach (R230), whether its session is Closed (R234, R282). -/
inductive HostTest where
  | lastOk | lastFailed | topologyDone | sessionClosed
  deriving DecidableEq, Repr

/-- One action of the host. `read`, `write` and `wait` are the accesses of R104; an address is a byte address
of the host's address space and a width is in bits. `attach` and `detach` are R280 to R283. `getParent`, `getRate`
and `setRate` are the host's own clock-tree requests (R66, R230, R231); `scaleRate` is a `set_rate` of the
oscillator's rate as last read, times `mul` over `div`, rounded down (R230). The rest is the host's own control
(R229 to R234; log 18): `skipIf` drops the next n actions if the test holds; `failUnlessOk` reports the failing
stage if the last action failed, and drops the next n; `fail` reports an error of the host itself; `negotiated` ends
stage S1, `topologyDone` stage S3; `session` moves the session state. -/
inductive HostAction where
  | read (addr width : Nat)
  | write (addr width : Nat) (v : Word)
  | wait
  | attach (cfg : Config) (binding : Binding)
  | detach
  | getParent (of : TreeNode)
  | getRate (of : TreeNode)
  | setRate (of : TreeNode) (hz : Nat)
  | scaleRate (of : TreeNode) (mul div : Nat)
  | skipIf (test : HostTest) (n : Nat)
  | failUnlessOk (stage : Stage) (n : Nat)
  | fail (stage : Stage) (e : HostError)
  | negotiated (plan : Plan)
  | topologyDone
  | session (next : Session)
  deriving DecidableEq, Repr

/-- The host agent: the actions it has still to take; what its last awaited command or clock-tree request failed
with, if it failed; its session state (R234) and the plan negotiated for it (R223, R234); the failure it reports
(R232); the oscillator's rate as last read, and whether the topology step has run since the attach (R230); the
values its reads returned and its own clock-tree requests, both oldest first. -/
structure HostAgent where
  actions      : List HostAction
  lastFailure  : Option Report
  session      : Session
  plan         : Option Plan
  failed       : Option Failure
  oscillatorHz : Option Nat
  topologyDone : Bool
  readings     : List (Nat × Word)
  requests     : List TreeRequest
  deriving DecidableEq, Repr

/-! ## The whole state -/

/-- The state (R20) with the instance's parameters and the agents around it. -/
structure State where
  /-- The parameters fixed at attach (R6, R280); no command changes them (R20). -/
  cfg      : Config
  /-- Attached (running) or detached (R274). -/
  attached : Bool
  clk      : ClockState
  left     : CodecState
  right    : CodecState
  eng      : Engine
  win      : Window
  held     : Option HeldWrite
  /-- The event history, oldest first (R84). -/
  history  : List Event
  /-- The time stamp in ms; it advances only at the settle timer's step (R294, log 13). -/
  now      : Nat
  ref      : RefModel
  env      : Environment
  host     : HostAgent
  deriving DecidableEq, Repr

/-! ## How a step can stop -/

/-- The machine's faults. The block itself has none (R250, R275). -/
inductive Fault where
  /-- Raised by `attach` when the parameters violate R7, a clock handle that CLOCK_SHAPE needs is missing or a codec
  that NUM_CODECS names cannot be bound; and by a step of an attached instance whose parameters violate R7: no such
  instance is created (R283, U29). Safe: no step of the machine exists there. -/
  | configError
  deriving DecidableEq, Repr

/-- Why a step has no meaning. -/
inductive Refusal where
  /-- Raised by an arm of `exec` whose instruction has no meaning yet. Safe. No arm does. -/
  | notModelled (mnemonic : String)
  /-- Raised by a host access that is not 32 bits wide at a multiple of 4 within the window: the model gives
  it no step (R64, R275, U21). Safe. -/
  | hostAccessUndefined
  /-- Raised by a host access to the window, a WAIT or a detach while no instance is attached (R282). DESIGN CHOICE,
  safe (log 14). -/
  | noInstance
  /-- Raised by an attach of an attached instance: there is no such reset (R280). DESIGN CHOICE, safe (log 14). -/
  | alreadyAttached
  deriving DecidableEq, Repr

/-! ## Reset (R46, R280, R281) -/

/-- A clock in Idle (R25). -/
def Lifecycle.idle : Lifecycle := { prepared := false, enabled := false }

/-- The clock state after reset (R46). -/
def ClockState.reset : ClockState where
  bclkHost           := .idle
  bclkL              := .idle
  bclkR              := .idle
  lrclkHost          := .idle
  lrclkL             := .idle
  lrclkR             := .idle
  gatePrepared       := false
  gateEnabled        := false
  masterClockEnabled := false
  muxSel             := none
  settlePending      := false

/-- The codec state after reset (R46): power unknown, no sysclk, every shadow entry at its default. -/
def CodecState.reset : CodecState where
  pd          := .unknown
  sysclk      := 0
  sysclkValid := false
  shadow      := []

/-- The engine after reset (R46): idle. -/
def Engine.reset : Engine where
  busy := false
  cur  := { cmd := 0, arg0 := 0, arg1 := 0 }
  step := none

/-- The stored host registers after reset (R46). -/
def Window.reset : Window where
  cmd           := 0
  arg0          := 0
  arg1          := 0
  code          := .ok
  infoId        := 0
  infoAddr      := 0
  data          := 0
  glitchRisk    := false
  teardownFault := false

/-- The reference codec model after reset (R69): every register at its default, the held LSB field that of
the default, the committed gain unknown. -/
def RefCodec.reset (cfg : Config) : RefCodec where
  reg      := []
  holdLsb0 := bitField (resetDefault cfg (addrAttLsb cfg .ch0)) 0 cfg.volLsbBits
  holdLsb1 := bitField (resetDefault cfg (addrAttLsb cfg .ch1)) 0 cfg.volLsbBits
  active0  := none
  active1  := none

/-- The host agent at reset: its session is Closed (R234); nothing done, read or reported (log 18). -/
def HostAgent.reset : HostAgent where
  actions      := []
  lastFailure  := none
  session      := .closed
  plan         := none
  failed       := none
  oscillatorHz := none
  topologyDone := false
  readings     := []
  requests     := []

/-- An instance right after its attach with the parameters `cfg` (R46, R280). The agents' fields are at the
values logs 3, 4, 5, 12, 13 and 18 name. -/
def State.resetWith (cfg : Config) : State where
  cfg      := cfg
  attached := true
  clk      := .reset
  left     := .reset
  right    := .reset
  eng      := .reset
  win      := .reset
  held     := none
  history  := []
  now      := 0
  ref      := { plugged := false, left := .reset cfg, right := .reset cfg }
  env      := { answers := [], turns := [], tick := 0 }
  host     := .reset

/-- The machine right after reset, with the reference configuration (R46; log 1). -/
def State.reset : State := State.resetWith Config.reference

end Sys2Proof.Machine
end

