-- ==== Sys2Proof/Machine/Memory.lean ====
section
/-! DEFINITION. Register files held sparsely in one canonical form (log 6). `dflt a` is what an address the
list does not name reads as: its reset default (R46, R69). -/
namespace Sys2Proof.Machine

/-- What address a holds. -/
def Memory.read {α : Type} (dflt : Nat → α) : Memory α → Nat → α
  | [], a => dflt a
  | (k, v) :: rest, a => if k = a then v else Memory.read dflt rest a

/-- The file with v at address a, in canonical form again: writing what an unlisted address reads as removes
the entry. -/
def Memory.write {α : Type} [DecidableEq α] (dflt : Nat → α) : Memory α → Nat → α → Memory α
  | [], a, v => if v = dflt a then [] else [(a, v)]
  | (k, w) :: rest, a, v =>
    if a < k then
      if v = dflt a then (k, w) :: rest else (a, v) :: (k, w) :: rest
    else if a = k then
      if v = dflt a then rest else (a, v) :: rest
    else (k, w) :: Memory.write dflt rest a v

/-- The canonical form: addresses strictly rising, and no entry equal to what an unlisted address reads as. -/
abbrev Memory.wf {α : Type} (dflt : Nat → α) (m : Memory α) : Prop :=
  m.Pairwise (fun x y => x.1 < y.1) ∧ ∀ x ∈ m, x.2 ≠ dflt x.1

/-- What an unlisted shadow entry reads as: the reset default, which is known (R46). -/
def shadowDefault (cfg : Config) (a : Nat) : Option Nat := some (resetDefault cfg a)

end Sys2Proof.Machine
end

