-- ==== Sys2Proof/Machine/Operands.lean ====
section
/-! DEFINITION. Operand forms: clock ids and groups (R21 to R23, R150), codec lists (R30, R146), the master
rate (R161), the volume encoding (R180, R181, R183), the enumerated controls (R185). -/
namespace Sys2Proof.Machine

/-! ## Clocks (R21, R22, R23) -/

/-- The clock id of a consumer (R21). -/
def Consumer.id : Consumer → Nat
  | .bclkHost => 0
  | .bclkL => 1
  | .bclkR => 2
  | .lrclkHost => 3
  | .lrclkL => 4
  | .lrclkR => 5

/-- The clock id (R21). -/
def Clock.id : Clock → Nat
  | .consumer k => k.id
  | .gate => 6
  | .mux => 7

/-- Is the consumer clock present (R22)? Bit clocks always are, frame clocks only in the six-clock shape. -/
def clockPresent (cfg : Config) : Consumer → Bool
  | .bclkHost => true
  | .bclkL => true
  | .bclkR => true
  | .lrclkHost => cfg.clockShape = .bclk3Lrclk3
  | .lrclkL => cfg.clockShape = .bclk3Lrclk3
  | .lrclkR => cfg.clockShape = .bclk3Lrclk3

/-- `G_BCLK` (R23). -/
def groupBclk : List Consumer := [.bclkHost, .bclkL, .bclkR]

/-- `G_LRCLK` (R23): empty when the frame clocks are absent. -/
def groupLrclk (cfg : Config) : List Consumer :=
  match cfg.clockShape with
  | .bclk3Lrclk3 => [.lrclkHost, .lrclkL, .lrclkR]
  | .bclk3 => []

/-- `G_BOTH` (R23): bit clocks then frame clocks; every present consumer clock. -/
def groupBoth (cfg : Config) : List Consumer := groupBclk ++ groupLrclk cfg

/-- `grp_list(GRP)` (R150), in start order. -/
def groupList (cfg : Config) : Group → List Consumer
  | .bclk => groupBclk
  | .lrclk => groupLrclk cfg
  | .both => groupBoth cfg

/-! ## Codecs (R30, R146) -/

/-- The codec number (R30). -/
def codecNum : CodecId → Nat
  | .left => 0
  | .right => 1

/-- The codec list of a set, left before right (R146). -/
def codecList (cs : CodecSet) : List CodecId := cs.codecs

/-- The codecs of the instance, left before right (R30). -/
def presentCodecs (cfg : Config) : List CodecId := [CodecId.left, CodecId.right].filter (present cfg)

/-! ## Master rates (R161) -/

/-- The master oscillator a rate selects (R155, R161); any other rate selects none. -/
def masterSource (hz : Word) : Option MasterSource :=
  if hz.toNat = mclk44k1 then some .src44k1
  else if hz.toNat = mclk48k then some .src48k
  else none

/-- The selector value sent to the mux (R67, R161). -/
def muxSelector (cfg : Config) : MasterSource → Nat
  | .src44k1 => cfg.muxSrc44k1
  | .src48k => cfg.muxSrc48k

/-- Is it one of the two master rates (R188)? -/
def isMasterRate (hz : Word) : Bool := (masterSource hz).isSome

/-! ## Volume (R180, R181, R183) -/

/-- `vol_raw(c, ch, v)` (R180). -/
def volRaw (cfg : Config) (c : CodecId) (ch : Channel) (v : Nat) : Nat :=
  if volInvert cfg c ch then volMax - v else v

/-- `vol_lsb(r)` (R180). -/
def volLsb (cfg : Config) (r : Nat) : Nat := bitField r 0 cfg.volLsbBits

/-- `vol_msb(r)` (R180): the upper bits with the latch bit. -/
def volMsb (cfg : Config) (r : Nat) : Nat :=
  bitField r cfg.volLsbBits (volMsbBits cfg) ||| cfg.latchMask

/-- The raw value of an MSB and an LSB register value, `m[..] || l[..]` (R71, R181). -/
def volJoin (cfg : Config) (l m : Nat) : Nat :=
  bitField m 0 (volMsbBits cfg) * 2 ^ cfg.volLsbBits + bitField l 0 cfg.volLsbBits

/-- `vol_decode(c, ch, l, m)` (R181). -/
def volDecode (cfg : Config) (c : CodecId) (ch : Channel) (l m : Nat) : Nat :=
  if volInvert cfg c ch then volMax - volJoin cfg l m else volJoin cfg l m

/-- Which channels a codec's differential mode exposes (R183). -/
def channelLegal (cfg : Config) (c : CodecId) (ch : Channel) : Bool :=
  match diffMode cfg c, ch with
  | .stereo, _ => true
  | .stereoReversed, _ => true
  | .monoLeft, .ch0 => true
  | .monoRight, .ch0 => true
  | .monoLeft, .ch1 => false
  | .monoRight, .ch1 => false

/-! ## Enumerated controls (R185) -/

/-- `mask_d`. -/
def enumMask (cfg : Config) (d : Control) : Nat :=
  (2 ^ (enumDesc cfg d).width - 1) <<< (enumDesc cfg d).shift

/-- `field_d(v)`. -/
def enumField (cfg : Config) (d : Control) (v : Nat) : Nat :=
  (v &&& enumMask cfg d) >>> (enumDesc cfg d).shift

/-- `legal_d(x)`. -/
def enumLegal (d : Control) (x : Nat) : Bool := decide (x < enumCount d)

end Sys2Proof.Machine
end

