-- ==== Sys2Proof/Machine/RefCodec.lean ====
section
/-! DEFINITION. The reference codec model (R69 to R76): the environment that may be plugged into the transport
port. No rule of the block reads it (R69). -/
namespace Sys2Proof.Machine

/-- `hold_lsb[c][ch]`. -/
def RefCodec.holdLsb (r : RefCodec) : Channel → Nat
  | .ch0 => r.holdLsb0
  | .ch1 => r.holdLsb1

/-- `active[c][ch]`; none is unspecified (R69, U12). -/
def RefCodec.active (r : RefCodec) : Channel → Option Nat
  | .ch0 => r.active0
  | .ch1 => r.active1

/-- Set `hold_lsb[c][ch]`. -/
def RefCodec.setHoldLsb (r : RefCodec) (ch : Channel) (v : Nat) : RefCodec :=
  match ch with
  | .ch0 => { r with holdLsb0 := v }
  | .ch1 => { r with holdLsb1 := v }

/-- Set `active[c][ch]`. -/
def RefCodec.setActive (r : RefCodec) (ch : Channel) (v : Nat) : RefCodec :=
  match ch with
  | .ch0 => { r with active0 := some v }
  | .ch1 => { r with active1 := some v }

/-- `reg[c][a]`. -/
def RefCodec.readReg (cfg : Config) (r : RefCodec) (a : Nat) : Nat :=
  Memory.read (resetDefault cfg) r.reg a

/-- The channel whose attenuation LSB register is at a, if any. -/
def lsbChannel (cfg : Config) (a : Nat) : Option Channel :=
  if a = cfg.addrAttLsb0 then some .ch0 else if a = cfg.addrAttLsb1 then some .ch1 else none

/-- The channel whose attenuation MSB register is at a, if any. -/
def msbChannel (cfg : Config) (a : Nat) : Option Channel :=
  if a = cfg.addrAttMsb0 then some .ch0 else if a = cfg.addrAttMsb1 then some .ch1 else none

/-- The codec takes a write of v to register a. An LSB write is held (R70). An MSB write with the latch bit
commits both halves (R71, R73). An MSB write without it commits nothing (R72). Any other write only stores. -/
def RefCodec.take (cfg : Config) (r : RefCodec) (a v : Nat) : RefCodec :=
  let r' : RefCodec := { r with reg := Memory.write (resetDefault cfg) r.reg a v }
  match lsbChannel cfg a, msbChannel cfg a with
  | some ch, _ => r'.setHoldLsb ch (bitField v 0 cfg.volLsbBits)
  | none, some ch =>
    if v &&& cfg.latchMask ≠ 0 then
      r'.setActive ch (bitField v 0 (volMsbBits cfg) * 2 ^ cfg.volLsbBits + r.holdLsb ch)
    else r'
  | none, none => r'

/-- The codec's analog output is powered down (R75). -/
def RefCodec.poweredDown (cfg : Config) (r : RefCodec) : Bool :=
  r.readReg cfg cfg.addrFmtctl &&& cfg.pdMask != 0

/-- The reference codec of codec c. -/
def RefModel.codec (m : RefModel) : CodecId → RefCodec
  | .left => m.left
  | .right => m.right

/-- A write request of the block answered by `d` (R62, R76): an answer `ok` means the codec took the value, an
answer `fail` leaves it to the draw whether it did. Without the plug there is no reference codec to write. -/
def RefModel.write (cfg : Config) (m : RefModel) (c : CodecId) (a v : Nat) (d : Answer) : RefModel :=
  if m.plugged && (d.ok || d.taken) then
    match c with
    | .left => { m with left := m.left.take cfg a v }
    | .right => { m with right := m.right.take cfg a v }
  else m

/-- Does a read answered by `d` succeed? Under the reference codec model it always does, since its answer is
`ok(reg[c][a])` (R61, R74); else the draw says. -/
def RefModel.readOk (m : RefModel) (d : Answer) : Bool := m.plugged || d.ok

/-- The value of a successful read (R61, R74): the reference codec's register when it is plugged in, else the
drawn value, a REG_DATA_BITS-bit one. -/
def RefModel.readValue (cfg : Config) (m : RefModel) (c : CodecId) (a : Nat) (d : Answer) : Nat :=
  if m.plugged then (m.codec c).readReg cfg a else d.value % 2 ^ cfg.regDataBits

end Sys2Proof.Machine
end

