-- ==== Sys2Proof/Machine/Ops.lean ====
section
/-! DEFINITION. The named operations every command is made of: the accessors of the state's parts, the answers
of the agents (R61, R62, R66, R148), ending a command (`raise`, R126, the block's whole failure mechanism,
R250, R267), the engine's position (R35), and the helpers of R141 to R144. There is no return from a failure
(R268), so no second operation stands beside `raise`. -/
namespace Sys2Proof.Machine

/-- What a meaning answers. -/
abbrev Result := Host.Outcome State Fault Refusal

/-! ## Parts of the state -/

/-- The flags of a consumer clock (R24). -/
def ClockState.flags (c : ClockState) : Consumer → Lifecycle
  | .bclkHost => c.bclkHost
  | .bclkL => c.bclkL
  | .bclkR => c.bclkR
  | .lrclkHost => c.lrclkHost
  | .lrclkL => c.lrclkL
  | .lrclkR => c.lrclkR

/-- Replace the flags of a consumer clock. -/
def ClockState.setFlags (c : ClockState) (k : Consumer) (v : Lifecycle) : ClockState :=
  match k with
  | .bclkHost => { c with bclkHost := v }
  | .bclkL => { c with bclkL := v }
  | .bclkR => { c with bclkR := v }
  | .lrclkHost => { c with lrclkHost := v }
  | .lrclkL => { c with lrclkL := v }
  | .lrclkR => { c with lrclkR := v }

/-- `S.prepared[k]`. -/
def ClockState.prepared (c : ClockState) (k : Consumer) : Bool := (c.flags k).prepared

/-- `S.enabled[k]`. -/
def ClockState.enabled (c : ClockState) (k : Consumer) : Bool := (c.flags k).enabled

/-- `S.prepared[k] <- b`. -/
def ClockState.setPrepared (c : ClockState) (k : Consumer) (b : Bool) : ClockState :=
  c.setFlags k { c.flags k with prepared := b }

/-- `S.enabled[k] <- b`. -/
def ClockState.setEnabled (c : ClockState) (k : Consumer) (b : Bool) : ClockState :=
  c.setFlags k { c.flags k with enabled := b }

/-- Change the clock state. -/
def State.onClk (s : State) (f : ClockState → ClockState) : State := { s with clk := f s.clk }

/-- The block's state for codec c. -/
def State.codec (s : State) : CodecId → CodecState
  | .left => s.left
  | .right => s.right

/-- Change the state of codec c. -/
def State.onCodec (s : State) (c : CodecId) (f : CodecState → CodecState) : State :=
  { s with
    left := if c = .left then f s.left else s.left
    right := if c = .right then f s.right else s.right }

/-- `S.shadow[c][a]` (R33); none is `⊥`. -/
def State.shadow (s : State) (c : CodecId) (a : Nat) : Option Nat :=
  Memory.read (shadowDefault s.cfg) (s.codec c).shadow a

/-- Change the stored host registers. -/
def State.onWin (s : State) (f : Window → Window) : State := { s with win := f s.win }

/-- Append to the event history (R84). -/
def State.record (s : State) (e : Event) : State := { s with history := s.history ++ [e] }

/-- `FLAGS.GLITCH_RISK <- 1` (R137). -/
def State.flagGlitch (s : State) : State := s.onWin fun w => { w with glitchRisk := true }

/-- `FLAGS.TEARDOWN_FAULT <- 1` (R141). -/
def State.flagTeardown (s : State) : State := s.onWin fun w => { w with teardownFault := true }

/-- `DATA <- v` (R40); DATA is 32 bits (log 24). -/
def State.setData (s : State) (v : Nat) : State := s.onWin fun w => { w with data := BitVec.ofNat 32 v }

/-- `S.sysclk_valid[c] <- 0; S.sysclk[c] <- 0` (R32). -/
def CodecState.clearSysclk (x : CodecState) : CodecState := { x with sysclkValid := false, sysclk := 0 }

/-- `S.sysclk[c] <- m; S.sysclk_valid[c] <- 1` (R188). -/
def CodecState.setSysclk (x : CodecState) (m : Word) : CodecState := { x with sysclkValid := true, sysclk := m }

/-! ## Ending a command (R126) -/

/-- `raise Code(id = i, addr = a)` (R126): write STATUS, clear BUSY, discard the step. State that earlier
steps wrote stays (R139). -/
def State.raise (s : State) (code : Code) (id addr : Nat) : State :=
  { s with
    win := { s.win with code := code, infoId := BitVec.ofNat 8 id, infoAddr := BitVec.ofNat 8 addr }
    eng := { s.eng with busy := false, step := none } }

/-- A command that completes its last step ends `OK` (R126). -/
def State.finish (s : State) : State := s.raise .ok 0 0

/-- The guards of the table of R145. -/
inductive Guard where
  | codecSysclkMissing | masterNotReady | clockNotEnabled | codecSysclkInvalid | codecNotDown
  | clockNotPrepared | clockStillEnabled | masterSelected | codecUp
  deriving DecidableEq, Repr

/-- The number of a guard in INFO_ADDR (R145). -/
def Guard.number : Guard → Nat
  | .codecSysclkMissing => 0x01
  | .masterNotReady => 0x02
  | .clockNotEnabled => 0x03
  | .codecSysclkInvalid => 0x04
  | .codecNotDown => 0x05
  | .clockNotPrepared => 0x06
  | .clockStillEnabled => 0x07
  | .masterSelected => 0x08
  | .codecUp => 0x09

/-- `raise SEQUENCE_ERROR`, naming the guard (R145, R255). -/
def State.refuse (s : State) (id : Nat) (g : Guard) : State := s.raise .sequenceError id g.number

/-- One iteration of a guard loop (R10, R132 to R136): whether the guard fails there, and the clock or codec it is
about. -/
structure GuardCheck where
  fails : Bool
  id    : Nat
  guard : Guard
  deriving DecidableEq, Repr

/-! ## The engine's position (R35) -/

/-- The start of a command (R121). -/
def Position.start : Position where
  phase := .start
  elem  := 0
  req   := 0
  up    := false
  vals  := []
  first := none

/-- Where the engine is; without a step, the start (log 21). -/
def State.position (s : State) : Position := s.eng.step.getD Position.start

/-- Move the engine. -/
def State.goTo (s : State) (f : Position → Position) : State :=
  { s with eng := { s.eng with step := some (f s.position) } }

/-- Past the checks: to the first of n elements; a command with none of them is complete (R150). -/
def State.enterBody (s : State) (n : Nat) : State :=
  if n = 0 then s.finish else s.goTo fun p => { p with phase := .body, elem := 0, req := 0 }

/-- To the next request of the element. -/
def State.nextReq (s : State) : State := s.goTo fun p => { p with req := p.req + 1 }

/-- To the next of n elements, or, after the last, `last`. -/
def State.nextElem (s : State) (n : Nat) (last : State → State) : State :=
  if s.position.elem + 1 < n then s.goTo fun p => { p with elem := p.elem + 1, req := 0 } else last s

/-- The current element of a command's list; past its end, which no command reaches, it is complete (log 21). -/
def State.atElem {α : Type} (s : State) (l : List α) (f : α → State) : State :=
  match l[s.position.elem]? with
  | some x => f x
  | none => s.finish

/-- To the first iteration of the guard loops gs; without one, to the first of n elements. -/
def State.enterGuards (s : State) (gs : List GuardCheck) (n : Nat) : State :=
  if gs.isEmpty then s.enterBody n else s.goTo fun p => { p with phase := .guards, elem := 0, req := 0 }

/-- One iteration of the guard loops gs (R10, R127): a guard that fails ends the command; past the last iteration the
command goes to the first of its n elements. -/
def State.guardStep (s : State) (gs : List GuardCheck) (n : Nat) : State :=
  s.atElem gs fun g => if g.fails then s.refuse g.id g.guard else s.nextElem gs.length (·.enterBody n)

/-- One engine step of a command without guard loops: its checks, or a step of its execution (R123, R127; log 2). Such
a command is never among guards (log 21). -/
def State.byPhase (s : State) (checks body : State → State) : Result :=
  .next (match s.position.phase with
    | .start => checks s
    | .guards => s.finish
    | .body => body s)

/-- One engine step of a command of n elements with the guard loops gs: its first check, whose failure ends the command
in the state `first`; one iteration of its guard loops; or a step of its execution (R10, R123, R127; log 2). -/
def State.byGuards (s : State) (first : Option State) (gs : List GuardCheck) (n : Nat) (body : State → State) :
    Result :=
  .next (match s.position.phase with
    | .start => first.getD (s.enterGuards gs n)
    | .guards => s.guardStep gs n
    | .body => body s)

/-! ## Answers of the agents (R148; log 3) -/

/-- What the agent that the engine waits on does at this step: the next entry of `env.answers`, or, once they
are used up, a draw that nothing constrains. -/
def State.takeAnswer (s : State) : Option Answer × State :=
  match s.env.answers with
  | a :: rest => (a, { s with env := { s.env with answers := rest } })
  | [] => (Config.lateAnswer s.env.tick, { s with env := { s.env with tick := s.env.tick + 1 } })

/-- Wait for an answer: without one the engine holds, and nothing else changes (R123, R148, U18); with one, go
on. -/
def State.awaitAnswer (s : State) (k : Answer → State → State) : State :=
  match s.takeAnswer with
  | (none, s') => s'
  | (some d, s') => k d s'

/-! ## Clock requests (R66, R141) -/

/-- `ClkReq(op, k)`, recorded with its answer (R84). -/
def State.clkReq (s : State) (op : ClkOp) (k : Clock) (cont : Bool → State → State) : State :=
  s.awaitAnswer fun d s' => cont d.ok (s'.record (.clkReq op k d.ok))

/-- `StartReq(op, k, Code)` (R141): a failed request ends the command with Code(id = k). -/
def State.startReq (s : State) (op : ClkOp) (k : Clock) (code : Code) (onOk : State → State) : State :=
  s.clkReq op k fun ok s' => if ok then onOk s' else s'.raise code k.id 0

/-- `TeardownReq(op, k)` (R141): a failed request is recorded in FLAGS and counts as done. -/
def State.teardownReq (s : State) (op : ClkOp) (k : Clock) (done : State → State) : State :=
  s.clkReq op k fun ok s' => done (if ok then s' else s'.flagTeardown)

/-! ## Register accesses (R61, R62, R142 to R144) -/

/-- `MemWrite((c, a), 1, v)` (R62), recorded with its answer; the plugged reference codec sees it (R76). -/
def State.memWrite (s : State) (c : CodecId) (a v : Nat) (cont : Bool → State → State) : State :=
  s.awaitAnswer fun d s' =>
    cont d.ok ({ s' with ref := s'.ref.write s'.cfg c a v d }.record (.memWrite c a v d.ok))

/-- What WriteReg does to the codec's state on the answer (R142, R147). -/
def CodecState.afterWrite (cfg : Config) (a v : Nat) (ok : Bool) (x : CodecState) : CodecState :=
  if ok then
    { x with
      shadow := Memory.write (shadowDefault cfg) x.shadow a (some v)
      pd := if a = cfg.addrFmtctl then (if v &&& cfg.pdMask ≠ 0 then .down else .up) else x.pd }
  else
    { x with
      shadow := Memory.write (shadowDefault cfg) x.shadow a none
      pd := if a = cfg.addrFmtctl then .unknown else x.pd
      sysclkValid := if a = cfg.addrFmtctl then false else x.sysclkValid
      sysclk := if a = cfg.addrFmtctl then 0 else x.sysclk }

/-- `WriteReg(c, a, v)` (R142). -/
def State.writeReg (s : State) (c : CodecId) (a v : Nat) (cont : Bool → State → State) : State :=
  s.memWrite c a v fun ok s' => cont ok (s'.onCodec c (CodecState.afterWrite s'.cfg a v ok))

/-- `raise REGISTER_WRITE_ERROR(id = c, addr = a)`, what a caller that aborts does (R142, R261). -/
def State.writeError (s : State) (c : CodecId) (a : Nat) : State := s.raise .registerWriteError (codecNum c) a

/-- The value a read-modify-write writes: `(base & ~clear) | set` within REG_DATA_BITS (R143). -/
def rmwValue (cfg : Config) (base clear set : Nat) : Nat :=
  (clearBits base clear ||| set) % 2 ^ cfg.regDataBits

/-- `Rmw(c, a, clear, set)` (R143): on an unknown base `raise STATE_UNKNOWN(id = c, addr = a)`. -/
def State.rmw (s : State) (c : CodecId) (a clear set : Nat) (cont : Bool → State → State) : State :=
  match s.shadow c a with
  | none => s.raise .stateUnknown (codecNum c) a
  | some base => s.writeReg c a (rmwValue s.cfg base clear set) cont

/-- `ReadReg(c, a)` (R144): `MemRead((c, a), 1)`, recorded with its answer; a failed read ends the command
with REGISTER_READ_ERROR(id = c, addr = a). Under the reference codec model no read fails (R61, R74). -/
def State.readReg (s : State) (c : CodecId) (a : Nat) (cont : Nat → State → State) : State :=
  s.awaitAnswer fun d s' =>
    if s'.ref.readOk d then
      cont (s'.ref.readValue s'.cfg c a d) (s'.record (.memRead c a (some (s'.ref.readValue s'.cfg c a d))))
    else (s'.record (.memRead c a none)).raise .registerReadError (codecNum c) a

end Sys2Proof.Machine
end

