-- ==== Sys2Proof/Machine/Flags.lean ====
section
/-! DEFINITION. The guard predicates (R128 to R131) and the words the flags and fields are read as: STATUS
(R39, R251), CLKSTATE (R41), CODECSTATE (R42), SYSCLK (R43), FLAGS (R44). -/
namespace Sys2Proof.Machine

/-! ## Guard predicates -/

/-- `FMT_READY` (R128). -/
def State.fmtReady (s : State) : Bool := (presentCodecs s.cfg).all fun c => (s.codec c).sysclkValid

/-- `CLOCKS_RUNNING` (R129). -/
def State.clocksRunning (s : State) : Bool := (groupBoth s.cfg).all fun k => s.clk.enabled k

/-- `MASTER_READY` (R130). -/
def State.masterReady (s : State) : Bool := s.clk.masterClockEnabled

/-- `ANY_UP` (R131). -/
def State.anyUp (s : State) : Bool := (presentCodecs s.cfg).any fun c => (s.codec c).pd == .up

/-! ## Guard loops (R132 to R136, R187): one check per iteration, in list order -/

/-- The codecs l, each with a valid sysclk; g names the guard. -/
def State.sysclkChecks (s : State) (l : List CodecId) (g : Guard) : List GuardCheck :=
  l.map fun c => { fails := !(s.codec c).sysclkValid, id := codecNum c, guard := g }

/-- The guards of ENABLE_ALL: OC1 (R132), no check fails exactly if `FMT_READY` (R128); then OC4 (R135). -/
def enableGuards (g : Group) (s : State) : List GuardCheck :=
  s.sysclkChecks (presentCodecs s.cfg) .codecSysclkMissing ++
  (groupList s.cfg g).map fun k => { fails := !s.clk.prepared k, id := k.id, guard := .clockNotPrepared }

/-- The guard of UNPREPARE_ALL, OC5 (R136), in teardown order. -/
def unprepareGuards (g : Group) (s : State) : List GuardCheck :=
  (groupList s.cfg g).reverse.map fun k => { fails := s.clk.enabled k, id := k.id, guard := .clockStillEnabled }

/-- The guard of APPLY_STARTUP (R187). -/
def startupGuards (cs : CodecSet) (s : State) : List GuardCheck :=
  (codecList cs).map fun c => { fails := (s.codec c).pd == .up, id := codecNum c, guard := .codecUp }

/-- The guard of SET_FMT_SYSCLK, OC3 (R134). -/
def fmtGuards (cs : CodecSet) (s : State) : List GuardCheck :=
  (codecList cs).map fun c => { fails := (s.codec c).pd != .down, id := codecNum c, guard := .codecNotDown }

/-- The guard loops of POWER_UP, the rest of OC2 (R133): no check of a clock fails exactly if `CLOCKS_RUNNING` (R129);
then the named codecs. -/
def powerUpGuards (cs : CodecSet) (s : State) : List GuardCheck :=
  ((groupBoth s.cfg).map fun k => { fails := !s.clk.enabled k, id := k.id, guard := .clockNotEnabled }) ++
  s.sysclkChecks (codecList cs) .codecSysclkInvalid

/-! ## Readback words -/

/-- The value of a result code (R251). -/
def Code.toByte : Code → Byte
  | .ok => 0x00
  | .illegalCommand => 0x01
  | .invalidOperand => 0x02
  | .sequenceError => 0x03
  | .stateUnknown => 0x04
  | .prepareError => 0x10
  | .enableError => 0x11
  | .rateSetError => 0x12
  | .unsupportedMasterRate => 0x14
  | .registerWriteError => 0x20
  | .registerReadError => 0x21
  | .desyncError => 0x22

/-- STATUS (R39): BUSY, INFO_ADDR, INFO_ID, CODE. -/
def State.statusWord (s : State) : Word :=
  BitVec.ofBool s.eng.busy ++ (0 : BitVec 7) ++ s.win.infoAddr ++ s.win.infoId ++ s.win.code.toByte

/-- The MUX field of CLKSTATE (R41). -/
def muxField : Option MasterSource → BitVec 2
  | some .src44k1 => 0
  | some .src48k => 1
  | none => 3

/-- One bit per consumer clock, bit k for clock id k; an absent clock's bit reads 0 (R22, R41). -/
def consumerBits (cfg : Config) (f : Consumer → Bool) : BitVec 6 :=
  let bit (k : Consumer) : BitVec 1 := BitVec.ofBool (clockPresent cfg k && f k)
  bit .lrclkR ++ bit .lrclkL ++ bit .lrclkHost ++ bit .bclkR ++ bit .bclkL ++ bit .bclkHost

/-- CLKSTATE (R41). -/
def State.clkstateWord (s : State) : Word :=
  (0 : BitVec 10) ++ muxField s.clk.muxSel ++ BitVec.ofBool s.clk.settlePending ++
    BitVec.ofBool s.clk.masterClockEnabled ++ BitVec.ofBool s.clk.gateEnabled ++
    BitVec.ofBool s.clk.gatePrepared ++ (0 : BitVec 2) ++ consumerBits s.cfg s.clk.enabled ++
    (0 : BitVec 2) ++ consumerBits s.cfg s.clk.prepared

/-- The PD field of CODECSTATE (R42). -/
def Power.code : Power → BitVec 2
  | .unknown => 0
  | .down => 1
  | .up => 2

/-- The code of a differential mode (R34). -/
def diffCode : DiffMode → BitVec 3
  | .stereo => 0
  | .stereoReversed => 1
  | .monoLeft => 2
  | .monoRight => 3

/-- Byte c of CODECSTATE (R42); an absent codec's byte reads 0. -/
def State.codecByte (s : State) (c : CodecId) : Byte :=
  if present s.cfg c then
    (0 : BitVec 1) ++ diffCode (diffMode s.cfg c) ++ (1 : BitVec 1) ++
      BitVec.ofBool (s.codec c).sysclkValid ++ (s.codec c).pd.code
  else 0

/-- CODECSTATE (R42). -/
def State.codecstateWord (s : State) : Word :=
  (0 : BitVec 16) ++ s.codecByte .right ++ s.codecByte .left

/-- SYSCLK_L and SYSCLK_R (R43): 0 for an absent codec or an invalid association (log 17). -/
def State.sysclkWord (s : State) (c : CodecId) : Word :=
  if present s.cfg c && (s.codec c).sysclkValid then (s.codec c).sysclk else 0

/-- FLAGS (R44). -/
def State.flagsWord (s : State) : Word :=
  (0 : BitVec 30) ++ BitVec.ofBool s.win.teardownFault ++ BitVec.ofBool s.win.glitchRisk

/-- A host write of v to FLAGS clears each flag whose bit is 1 in v (R44). -/
def Window.clearFlags (w : Window) (v : Word) : Window :=
  { w with
    glitchRisk := w.glitchRisk && !v.getLsbD 0
    teardownFault := w.teardownFault && !v.getLsbD 1 }

end Sys2Proof.Machine
end

