-- ==== Sys2Proof/Machine/HostPort.lean ====
section
/-! DEFINITION. The host register window: which register an access names (R36, R64, R83), what a read returns
(R37 to R45), what a write does (R121, R44, R45) and which writes hold while the engine is busy (R122). -/
namespace Sys2Proof.Machine

/-- The register at a window offset (R36); 0x28 to 0x3C are reserved; any other offset is none (R64). -/
def windowReg (off : Nat) : Option WindowReg :=
  match off with
  | 0x00 => some .cmd
  | 0x04 => some .arg0
  | 0x08 => some .arg1
  | 0x0C => some .status
  | 0x10 => some .data
  | 0x14 => some .clkstate
  | 0x18 => some .codecstate
  | 0x1C => some .sysclkL
  | 0x20 => some .sysclkR
  | 0x24 => some .flags
  | n => if n < 64 ∧ n % 4 = 0 then some .reserved else none

/-- The register a host access names: 32 bits wide, at a defined offset from `WINDOW_BASE` (R64, R83). -/
def hostReg (cfg : Config) (addr width : Nat) : Option WindowReg :=
  if width = 32 ∧ cfg.windowBase ≤ addr then windowReg (addr - cfg.windowBase) else none

/-- What a host read returns (R37 to R45): the value at the moment of the read. -/
def State.readWindow (s : State) : WindowReg → Word
  | .cmd => s.win.cmd
  | .arg0 => s.win.arg0
  | .arg1 => s.win.arg1
  | .status => s.statusWord
  | .data => s.win.data
  | .clkstate => s.clkstateWord
  | .codecstate => s.codecstateWord
  | .sysclkL => s.sysclkWord .left
  | .sysclkR => s.sysclkWord .right
  | .flags => s.flagsWord
  | .reserved => 0

/-- Issue of a command (R121): the word and the operands are latched, STATUS is cleared, the engine is busy at
the start of the command. -/
def State.issue (s : State) (w : Word) : State :=
  { s with
    win := { s.win with cmd := w, code := .ok, infoId := 0, infoAddr := 0 }
    eng := { busy := true, cur := { cmd := w, arg0 := s.win.arg0, arg1 := s.win.arg1 }, step := some .start } }

/-- A host write that takes effect (R37, R38, R44, R45). -/
def State.writeWindow (s : State) (r : WindowReg) (v : Word) : State :=
  match r with
  | .cmd => s.issue v
  | .arg0 => s.onWin fun w => { w with arg0 := v }
  | .arg1 => s.onWin fun w => { w with arg1 := v }
  | .flags => s.onWin fun w => w.clearFlags v
  | .status => s
  | .data => s
  | .clkstate => s
  | .codecstate => s
  | .sysclkL => s
  | .sysclkR => s
  | .reserved => s

/-- Does a write to the register hold while the engine is busy (R122)? A write to a read-only register or a
reserved offset is ignored at once (R45). -/
def WindowReg.holds : WindowReg → Bool
  | .cmd => true
  | .arg0 => true
  | .arg1 => true
  | .flags => true
  | .status => false
  | .data => false
  | .clkstate => false
  | .codecstate => false
  | .sysclkL => false
  | .sysclkR => false
  | .reserved => false

/-- A host write arriving now (R122): while the engine is busy, one to CMD, ARG0, ARG1 or FLAGS is held. -/
def State.hostWrite (s : State) (r : WindowReg) (v : Word) : State :=
  if s.eng.busy && r.holds then { s with held := some { reg := r, value := v } } else s.writeWindow r v

end Sys2Proof.Machine
end

