-- ==== Sys2Proof/Machine/Agents.lean ====
section
/-! DEFINITION. The host as an agent (R5, R220): its actions one by one, the held write (R122), attach and
detach (R280 to R283), its own clock-tree requests (R230, R231), and which of host and engine moves next (log 4); with the command the engine is
running (R124). -/
namespace Sys2Proof.Machine

/-! ## The engine's command -/

/-- The command the latched word stands for (R99, R124). -/
def State.command (s : State) : Except Illegal Instr := decode s.cfg.numCodecs s.eng.cur.cmd

/-- An illegal word ends the command at once and changes nothing else (R124, R253). -/
def State.endIllegal (s : State) : State := s.raise .illegalCommand 0 0

/-! ## Attach and detach (R280, R282, R283) -/

/-- The clocks an instance needs a handle for (R22, R283): every consumer clock of its CLOCK_SHAPE, the gate and the
mux. -/
def neededClocks (cfg : Config) : List Clock := (groupBoth cfg).map .consumer ++ [.gate, .mux]

/-- The platform has a handle for every clock that CLOCK_SHAPE needs and can bind every codec that NUM_CODECS names
(R283). -/
def bindingOk (cfg : Config) (b : Binding) : Bool :=
  (neededClocks cfg).all (b.handles.contains ·) && (presentCodecs cfg).all (b.codecs.contains ·)

/-- A new instance: every field of the block at its reset value (R46, R280). The host's actions, its readings and
requests, the agents' draws and the time go on; its session is Closed, with nothing negotiated, resolved or reported
(R230, R234; log 14). -/
def State.attachWith (s : State) (cfg : Config) : State :=
  { State.resetWith cfg with
    now := s.now
    env := s.env
    host := { HostAgent.reset with
      actions     := s.host.actions
      lastFailure := s.host.lastFailure
      readings    := s.host.readings
      requests    := s.host.requests } }

/-- A detach discards every field of the block (R282; log 14). -/
def State.detached (s : State) : State := { s.attachWith s.cfg with attached := false }

/-! ## The host's actions -/

/-- Change the host agent. -/
def State.onHost (s : State) (f : HostAgent → HostAgent) : State := { s with host := f s.host }

/-- The host has taken an action and has `rest` left. -/
def State.hostDone (s : State) (rest : List HostAction) : State := s.onHost fun h => { h with actions := rest }

/-- A host access to the window needs an instance and a defined register (R64, R282). -/
def State.access (s : State) (addr width : Nat) (k : WindowReg → State) : Result :=
  if s.attached then
    match hostReg s.cfg addr width with
    | some r => .next (k r)
    | none => .refused .hostAccessUndefined
  else .refused .noInstance

/-- A clock-tree request of the host (R66): it waits for the answer, logs the request with it, and notes the error
the answer stands for, if any. No field of the block changes (R68). -/
def State.treeRequest (s : State) (rest : List HostAction) (request : Answer → TreeRequest)
    (error : Answer → Option HostError) (note : Answer → HostAgent → HostAgent) : State :=
  s.awaitAnswer fun d s' =>
    (s'.hostDone rest).onHost fun h =>
      note d { h with requests := h.requests ++ [request d], lastFailure := (error d).map .hostError }

/-- `get_parent(k)` (R230): a missing ancestor is a TopologyError. -/
def State.getParent (s : State) (k : TreeNode) (rest : List HostAction) : State :=
  s.treeRequest rest (fun d => .getParent k d.ok) (fun d => if d.ok then none else some (.topologyError k))
    (fun _ h => h)

/-- `get_rate(k)` (R230): the rate answered is kept as the oscillator's; a clock whose rate cannot be read is a
TopologyError (log 32). -/
def State.getRate (s : State) (k : TreeNode) (rest : List HostAction) : State :=
  s.treeRequest rest (fun d => .getRate k (if d.ok then some d.value else none))
    (fun d => if d.ok then none else some (.topologyError k))
    (fun d h => { h with oscillatorHz := if d.ok then some d.value else none })

/-- `set_rate(k, hz)` (R230, R231): a refusal is a RateSetError with the clock. -/
def State.setRate (s : State) (k : TreeNode) (hz : Nat) (rest : List HostAction) : State :=
  s.treeRequest rest (fun d => .setRate k hz d.ok) (fun d => if d.ok then none else some (.rateSetError k))
    (fun _ h => h)

/-- `set_rate(k, f_in × mul ÷ div)`, rounded down, with `f_in` the oscillator's rate as last read (R230); where none
has been read there is no rate to ask for, and the topology is not resolved. -/
def State.scaleRate (s : State) (k : TreeNode) (mul div : Nat) (rest : List HostAction) : State :=
  match s.host.oscillatorHz with
  | some f => s.setRate k (f * mul / div) rest
  | none => (s.hostDone rest).onHost fun h => { h with lastFailure := some (.hostError (.topologyError k)) }

/-- Does the test of a host program hold? -/
def HostAgent.test (h : HostAgent) : HostTest → Bool
  | .lastOk => h.lastFailure.isNone
  | .lastFailed => h.lastFailure.isSome
  | .topologyDone => h.topologyDone
  | .sessionClosed => h.session == .closed

/-- The host's session moves (R234). The plan belongs to a session: none outlives the shutdown (R234). -/
def HostAgent.moveTo (h : HostAgent) (next : Session) : HostAgent :=
  { h with session := next, plan := if next = .closed then none else h.plan }

/-- The host takes the action a, with `rest` after it. A WAIT and a detach stay where they are while the engine
is busy (R104, R282), a clock-tree request until it is answered. DESIGN CHOICE (log 14): a WAIT or a detach with no
instance attached is refused, and a clock-tree request needs none. -/
def State.hostAct (s : State) (a : HostAction) (rest : List HostAction) : Result :=
  match a with
  | .read addr width =>
    s.access addr width fun r =>
      (s.hostDone rest).onHost fun h => { h with readings := h.readings ++ [(addr, s.readWindow r)] }
  | .write addr width v => s.access addr width fun r => (s.hostDone rest).hostWrite r v
  | .wait =>
    if !s.attached then .refused .noInstance
    else if s.eng.busy then .next s
    else .next ((s.hostDone rest).onHost fun h =>
      { h with lastFailure := if s.win.code = .ok then none else some (.status s.statusWord) })
  | .attach cfg b =>
    if s.attached then .refused .alreadyAttached
    else if configOk cfg && bindingOk cfg b then .next ((s.hostDone rest).attachWith cfg)
    else .fault .configError
  | .detach =>
    if !s.attached then .refused .noInstance
    else if s.eng.busy then .next s
    else .next (s.hostDone rest).detached
  | .getParent k => .next (s.getParent k rest)
  | .getRate k => .next (s.getRate k rest)
  | .setRate k hz => .next (s.setRate k hz rest)
  | .scaleRate k mul div => .next (s.scaleRate k mul div rest)
  | .skipIf test n => .next (s.hostDone (if s.host.test test then rest.drop n else rest))
  | .failUnlessOk stage n =>
    .next (match s.host.lastFailure with
      | none => s.hostDone rest
      | some r => (s.hostDone (rest.drop n)).onHost fun h => { h with failed := some { stage := stage, report := r } })
  | .fail stage e =>
    .next ((s.hostDone rest).onHost fun h => { h with failed := some { stage := stage, report := .hostError e } })
  | .negotiated plan =>
    .next ((s.hostDone rest).onHost fun h => { h.moveTo .paramsNegotiated with plan := some plan, failed := none })
  | .topologyDone => .next ((s.hostDone rest).onHost fun h => { h with topologyDone := true })
  | .session next => .next ((s.hostDone rest).onHost fun h => h.moveTo next)

/-- The host moves: a held write takes effect once the engine is idle, as if written at that moment (R122);
else the next action; with none left, nothing happens (log 20). -/
def State.hostStep (s : State) : Result :=
  match s.held with
  | some h => if s.eng.busy then .next s else .next ({ s with held := none }.writeWindow h.reg h.value)
  | none =>
    match s.host.actions with
    | [] => .next s
    | a :: rest => s.hostAct a rest

/-! ## Who moves while the engine is busy (log 4) -/

/-- Can the host move while the engine is busy? Not behind a held write (R122), and not past a WAIT, an attach
or a detach. -/
def State.hostReady (s : State) : Bool :=
  s.held.isNone &&
  match s.host.actions with
  | [] => false
  | .wait :: _ => false
  | .attach _ _ :: _ => false
  | .detach :: _ => false
  | _ :: _ => true

/-- Whether the host (true) or the engine moves, and the state with that turn used up. -/
def State.pickTurn (s : State) : Bool × State :=
  match s.env.turns with
  | t :: rest => (t && s.hostReady, { s with env := { s.env with turns := rest } })
  | [] =>
    if s.hostReady then
      (Config.lateTurn s.env.tick, { s with env := { s.env with tick := s.env.tick + 1 } })
    else (false, s)

/-- The state at which the engine moves next: it has the next turn. -/
def State.giveTurnToEngine (s : State) : State := { s with env := { s.env with turns := false :: s.env.turns } }

end Sys2Proof.Machine
end

