-- ==== Sys2Proof/Machine/Clocks.lean ====
section
/-! DEFINITION. The clock lifecycle coordinator: the four group commands (R151 to R154) and the two master
clock commands (R155, R156). Decode comes before (R124, Step.lean). Each definition is one engine step of its
command: the checks at the start, one iteration of a guard loop, or one element or request of the body (R10, R123;
log 2). -/
namespace Sys2Proof.Machine

/-- PREPARE_ALL (R151). -/
def execPrepareAll (g : Group) (s : State) : Result :=
  let l := groupList s.cfg g
  s.byPhase
    (fun s => s.enterBody l.length)
    (fun s => s.atElem l fun k =>
      if s.clk.prepared k then s.nextElem l.length State.finish
      else s.startReq .prepare (.consumer k) .prepareError fun s =>
        (s.onClk (·.setPrepared k true)).nextElem l.length State.finish)

/-- ENABLE_ALL (R152): guards OC1 (R132) and OC4 (R135). -/
def execEnableAll (g : Group) (s : State) : Result :=
  let l := groupList s.cfg g
  s.byGuards none (enableGuards g s) l.length
    (fun s => s.atElem l fun k =>
      if s.clk.enabled k then s.nextElem l.length State.finish
      else s.startReq .enable (.consumer k) .enableError fun s =>
        (s.onClk (·.setEnabled k true)).nextElem l.length State.finish)

/-- DISABLE_ALL (R153): the group in reverse; GLITCH_RISK by OC6 (R137), TEARDOWN_FAULT by R141. -/
def execDisableAll (g : Group) (s : State) : Result :=
  let l := (groupList s.cfg g).reverse
  s.byPhase
    (fun s => (s.goTo fun p => { p with up := s.anyUp }).enterBody l.length)
    (fun s => s.atElem l fun k =>
      if s.clk.enabled k then
        s.teardownReq .disable (.consumer k) fun s =>
          ((if s.position.up then s.flagGlitch else s).onClk (·.setEnabled k false)).nextElem l.length State.finish
      else s.nextElem l.length State.finish)

/-- UNPREPARE_ALL (R154): the group in reverse; guard OC5 (R136). -/
def execUnprepareAll (g : Group) (s : State) : Result :=
  let l := (groupList s.cfg g).reverse
  s.byGuards none (unprepareGuards g s) l.length
    (fun s => s.atElem l fun k =>
      if s.clk.prepared k then
        s.teardownReq .unprepare (.consumer k) fun s =>
          (s.onClk (·.setPrepared k false)).nextElem l.length State.finish
      else s.nextElem l.length State.finish)

/-- The mux request of SELECT_MASTER, its first request (R155, R161, R259). -/
def selectMux (src : MasterSource) (s : State) : State :=
  s.clkReq (.setParentSource (muxSelector s.cfg src)) .mux fun ok s =>
    if ok then (s.onClk fun c => { c with muxSel := some src }).nextReq
    else (s.onClk fun c => { c with muxSel := none }).raise .rateSetError Clock.mux.id 0

/-- The gate enable of SELECT_MASTER; its `ok` starts the settle wait in the same step (R155, R162, R165). -/
def enableGate (s : State) : State :=
  s.startReq .enable .gate .enableError fun s =>
    ((s.onClk fun c => { c with gateEnabled := true, settlePending := true }).record (.settleStart s.now)).nextReq

/-- The settle wait (R166): when the timer fires, no earlier than SETTLE_MS after it started, the master clock
counts as enabled and the command is complete (R155, R167). -/
def endSettle (s : State) : State :=
  s.awaitAnswer fun d s =>
    let t := s.now + settleMs + d.extraMs
    (({ s with now := t }.record (.settleEnd t)).onClk fun c =>
      { c with settlePending := false, masterClockEnabled := true }).finish

/-- SELECT_MASTER (R155): an unsupported rate and a gate still prepared are refused before any request (R163). -/
def execSelectMaster (s : State) : Result :=
  s.byPhase
    (fun s =>
      match masterSource s.eng.cur.arg0 with
      | none => s.raise .unsupportedMasterRate 0 0
      | some _ => if s.clk.gatePrepared then s.refuse Clock.gate.id .masterSelected else s.enterBody 1)
    (fun s =>
      match masterSource s.eng.cur.arg0, s.position.req with
      | none, _ => s.raise .unsupportedMasterRate 0 0
      | some src, 0 => selectMux src s
      | some _, 1 => s.startReq .prepare .gate .prepareError fun s =>
          (s.onClk fun c => { c with gatePrepared := true }).nextReq
      | some _, 2 => enableGate s
      | some _, _ + 3 => endSettle s)

/-- RELEASE_MASTER (R156): the master flag goes first (R167), then the gate is disabled and unprepared, each
only if set; GLITCH_RISK by OC6 (R137). `mux_sel` is kept (R28). -/
def execReleaseMaster (s : State) : Result :=
  s.byPhase
    (fun s => ((s.goTo fun p => { p with up := s.anyUp }).onClk fun c =>
      { c with masterClockEnabled := false }).enterBody 1)
    (fun s =>
      match s.position.req with
      | 0 =>
        if s.clk.gateEnabled then
          s.teardownReq .disable .gate fun s =>
            ((if s.position.up then s.flagGlitch else s).onClk fun c => { c with gateEnabled := false }).nextReq
        else s.nextReq
      | _ + 1 =>
        if s.clk.gatePrepared then
          s.teardownReq .unprepare .gate fun s => (s.onClk fun c => { c with gatePrepared := false }).finish
        else s.finish)

end Sys2Proof.Machine
end

