-- ==== Sys2Proof/Machine/Codecs.lean ====
section
/-! DEFINITION. The codec power and format commands (R187 to R190). Each definition is one engine step of its
command (R10, R123; log 2). -/
namespace Sys2Proof.Machine

/-- APPLY_STARTUP (R187): for each codec, first the sysclk association is cleared (request index 0, a step
without a request), then the batch is written, one write a step (request index r + 1 is entry r). -/
def execApplyStartup (cs : CodecSet) (s : State) : Result :=
  let l := codecList cs
  s.byGuards none (startupGuards cs s) l.length
    (fun s => s.atElem l fun c =>
      match s.position.req with
      | 0 => (s.onCodec c CodecState.clearSysclk).nextReq
      | r + 1 =>
        match s.cfg.startupBatch[r]? with
        | none => s.nextElem l.length State.finish
        | some (a, v) =>
          s.writeReg c a v fun ok s =>
            if ok then
              if r + 1 < s.cfg.startupBatch.length then s.nextReq else s.nextElem l.length State.finish
            else s.writeError c a)

/-- SET_FMT_SYSCLK (R188): operand checks on the rate and the format code, guard OC3 (R134), then one
read-modify-write of the format-control register per codec. -/
def execSetFmtSysclk (cs : CodecSet) (s : State) : Result :=
  let l := codecList cs
  s.byGuards
    (if !isMasterRate s.eng.cur.arg0 then some (s.raise .invalidOperand 0 0)
      else if !withinMask s.eng.cur.arg1.toNat s.cfg.fmtMask then some (s.raise .invalidOperand 0 0)
      else none)
    (fmtGuards cs s) l.length
    (fun s => s.atElem l fun c =>
      s.rmw c s.cfg.addrFmtctl s.cfg.fmtMask s.eng.cur.arg1.toNat fun ok s =>
        if ok then (s.onCodec c (·.setSysclk s.eng.cur.arg0)).nextElem l.length State.finish
        else s.writeError c s.cfg.addrFmtctl)

/-- POWER_UP (R189): guard OC2 (R133) on the master clock, every present consumer clock and the named codecs,
in that order; then the power-down bit of each codec is cleared. -/
def execPowerUp (cs : CodecSet) (s : State) : Result :=
  let l := codecList cs
  s.byGuards
    (if !s.masterReady then some (s.refuse Clock.gate.id .masterNotReady) else none)
    (powerUpGuards cs s) l.length
    (fun s => s.atElem l fun c =>
      s.rmw c s.cfg.addrFmtctl s.cfg.pdMask 0 fun ok s =>
        if ok then s.nextElem l.length State.finish else s.writeError c s.cfg.addrFmtctl)

/-- The base POWER_DOWN writes from (R190): the shadow, or `STARTUP_FMTCTL` where it is unknown. -/
def State.powerDownBase (s : State) (c : CodecId) : Nat :=
  (s.shadow c s.cfg.addrFmtctl).getD (startupFmtctl s.cfg)

/-- The end of POWER_DOWN (R190): the first write error met, else OK. -/
def State.endPowerDown (s : State) : State :=
  match s.position.first with
  | some c => s.writeError c s.cfg.addrFmtctl
  | none => s.finish

/-- POWER_DOWN (R190): every codec of the set is attempted, the first failure is reported at the end, and the
sysclk association is cleared for every one. -/
def execPowerDown (cs : CodecSet) (s : State) : Result :=
  let l := codecList cs
  s.byPhase
    (fun s => s.enterBody l.length)
    (fun s => s.atElem l fun c =>
      s.writeReg c s.cfg.addrFmtctl (s.powerDownBase c ||| s.cfg.pdMask) fun ok s =>
        (((if ok then s else s.goTo fun p => { p with first := p.first.or (some c) }).onCodec c
          CodecState.clearSysclk).nextElem l.length State.endPowerDown))

end Sys2Proof.Machine
end

