-- ==== Sys2Proof/Machine/Controls.lean ====
section
/-! DEFINITION. The volume commands (R191, R192) and the stereo-shared controls (R193, R194). Each definition is
one engine step of its command (R10, R123; log 2). -/
namespace Sys2Proof.Machine

/-- SET_VOLUME (R191): the LSB register, then, only if that write answered ok, the MSB register with the latch
bit (R184). -/
def execSetVolume (c : CodecId) (ch : Channel) (s : State) : Result :=
  s.byPhase
    (fun s =>
      if volMax < s.eng.cur.arg0.toNat then s.raise .invalidOperand 0 0
      else if !channelLegal s.cfg c ch then s.raise .invalidOperand 0 0
      else s.enterBody 1)
    (fun s =>
      let r := volRaw s.cfg c ch s.eng.cur.arg0.toNat
      match s.position.req with
      | 0 =>
        s.writeReg c (addrAttLsb s.cfg ch) (volLsb s.cfg r) fun ok s =>
          if ok then s.nextReq else s.writeError c (addrAttLsb s.cfg ch)
      | _ + 1 =>
        s.writeReg c (addrAttMsb s.cfg ch) (volMsb s.cfg r) fun ok s =>
          if ok then s.finish else s.writeError c (addrAttMsb s.cfg ch))

/-- GET_VOLUME (R192): both registers are read through the transport, LSB first, and DATA gets the logical
value. -/
def execGetVolume (c : CodecId) (ch : Channel) (s : State) : Result :=
  s.byPhase
    (fun s => if !channelLegal s.cfg c ch then s.raise .invalidOperand 0 0 else s.enterBody 1)
    (fun s =>
      match s.position.req with
      | 0 =>
        s.readReg c (addrAttLsb s.cfg ch) fun v s => (s.goTo fun p => { p with vals := [v] }).nextReq
      | _ + 1 =>
        s.readReg c (addrAttMsb s.cfg ch) fun m s =>
          (s.setData (volDecode s.cfg c ch (s.position.vals.headD 0) m)).finish)

/-- The end of READ_SYNCED (R193): DATA gets the first value read, with which every other agrees. -/
def State.endReadSynced (s : State) : State := (s.setData (s.position.vals.headD 0)).finish

/-- One iteration of READ_SYNCED's comparison loop (R193), at element `l.length + j` for `i = j + 1`: the codec `l[i]`
is named if its field differs from that of `l[0]`. -/
def State.compareSynced (s : State) (l : List CodecId) (a : Nat) : State :=
  match (l.zip s.position.vals)[s.position.elem - l.length + 1]? with
  | none => s.finish
  | some (c, v) =>
    if v ≠ s.position.vals.headD 0 then s.raise .desyncError (codecNum c) a
    else s.nextElem (2 * l.length - 1) State.endReadSynced

/-- READ_SYNCED (R193): one read per codec, then one comparison per codec after the first, so `2 * l.length - 1`
elements in all. -/
def execReadSynced (cs : CodecSet) (d : Control) (s : State) : Result :=
  let l := codecList cs
  let a := (enumDesc s.cfg d).addr
  s.byPhase
    (fun s => s.enterBody l.length)
    (fun s =>
      match l[s.position.elem]? with
      | some c =>
        s.readReg c a fun v s =>
          (s.goTo fun p => { p with vals := p.vals ++ [enumField s.cfg d v] }).nextElem (2 * l.length - 1)
            State.endReadSynced
      | none => s.compareSynced l a)

/-- WRITE_SYNCED (R194): one read-modify-write of the control's field per codec. -/
def execWriteSynced (cs : CodecSet) (d : Control) (s : State) : Result :=
  let l := codecList cs
  let a := (enumDesc s.cfg d).addr
  s.byPhase
    (fun s => if !enumLegal d s.eng.cur.arg0.toNat then s.raise .invalidOperand 0 0 else s.enterBody l.length)
    (fun s => s.atElem l fun c =>
      s.rmw c a (enumMask s.cfg d) (s.eng.cur.arg0.toNat <<< (enumDesc s.cfg d).shift) fun ok s =>
        if ok then s.nextElem l.length State.finish else s.writeError c a)

end Sys2Proof.Machine
end

