-- ==== Sys2Proof/Machine/Dispatch.lean ====
section
/-! DEFINITION. One arm per command: the meaning of one engine step of it (R123). -/
namespace Sys2Proof.Machine

def exec (i : Instr) (s : State) : Host.Outcome State Fault Refusal :=
  match i with
  | .prepareAll g => Sys2Proof.Machine.execPrepareAll g s
  | .enableAll g => Sys2Proof.Machine.execEnableAll g s
  | .disableAll g => Sys2Proof.Machine.execDisableAll g s
  | .unprepareAll g => Sys2Proof.Machine.execUnprepareAll g s
  | .selectMaster => Sys2Proof.Machine.execSelectMaster s
  | .releaseMaster => Sys2Proof.Machine.execReleaseMaster s
  | .applyStartup cs => Sys2Proof.Machine.execApplyStartup cs s
  | .setFmtSysclk cs => Sys2Proof.Machine.execSetFmtSysclk cs s
  | .powerUp cs => Sys2Proof.Machine.execPowerUp cs s
  | .powerDown cs => Sys2Proof.Machine.execPowerDown cs s
  | .setVolume c ch => Sys2Proof.Machine.execSetVolume c ch s
  | .getVolume c ch => Sys2Proof.Machine.execGetVolume c ch s
  | .readSynced cs d => Sys2Proof.Machine.execReadSynced cs d s
  | .writeSynced cs d => Sys2Proof.Machine.execWriteSynced cs d s

end Sys2Proof.Machine
end

