-- ==== Sys2Proof/Machine/Step.lean ====
section
/-! DEFINITION. One step of the machine: one action of the host or one step of the command engine (R123). -/
namespace Sys2Proof.Machine

/-- One step of a busy engine: the latched word is decoded (R124), and its command moves one step. -/
def engineStep (s : State) : Host.Outcome State Fault Refusal :=
  match s.command with
  | .ok i => exec i s
  | .error _ => .next s.endIllegal

/-- One step of the machine. A detached block has only its host; parameters that violate R7 make no instance
(R283); an idle engine waits for the host (R284); while the engine is busy, host and engine take turns. -/
def step (s : State) : Host.Outcome State Fault Refusal :=
  if !s.attached then s.hostStep
  else if !configOk s.cfg then .fault .configError
  else if !s.eng.busy then s.hostStep
  else if s.pickTurn.1 then s.pickTurn.2.hostStep
  else engineStep s.pickTurn.2

/-- `s` right after a host write of the word to CMD (R121; log 15), attached and with the engine having the next
turn: commands are not fetched from a memory (R82), and the command latch is where the next step takes its
command from. -/
def State.withFetchWord (s : State) (nbits w : Nat) : State :=
  ({ s with attached := true }.issue (tableWord nbits w)).giveTurnToEngine

end Sys2Proof.Machine
end

