-- ==== Sys2Proof/Machine/HostProgram.lean ====
section
/-! DEFINITION. The host's side: negotiation (R223 to R228), the assembler (R103 to R105) and the session
sequences (R221, R229 to R235), as lists of host actions. Out of the block's scope by R4 (a) to (c): nothing
here is a behaviour of the block, and no meaning of a command reads it. -/
namespace Sys2Proof.Machine

/-! ## Negotiation (R223 to R228) -/

/-- `master_clock_hz` of a sample rate (R223, R224); none is an unsupported rate. -/
def masterOfRate (rate : Nat) : Option Nat :=
  if rate ∈ [44100, 88200, 176400] then some mclk44k1
  else if rate ∈ [32000, 48000, 96000, 192000] then some mclk48k
  else none

/-- `effective_width` (R225); none is an unsupported width (R223). -/
def effectiveWidth (cfg : Config) (width : Nat) : Option Nat :=
  match width with
  | 16 => some (match cfg.effWidth16 with | .w16 => 16 | .w32 => 32)
  | 24 => some 32
  | 32 => some 32
  | _ => none

/-- The codec-side format code of a width (R227). -/
def formatCode (cfg : Config) (width : Nat) : Nat :=
  if width = 16 then cfg.fmtCode16 else cfg.fmtCode32

/-- The host-side format of a width (R227): I2S with the host as clock master for both clocks, and one fixed
convention of polarity and phase for width 16, another for widths 24 and 32. -/
def hostFormat (width : Nat) : HostFormat where
  serial     := .i2sTwoChannel
  bitClock   := .master
  frameClock := .master
  edges      := if width = 16 then .forWidth16 else .forWidth24And32

/-- `negotiate(sample_rate_hz, bit_width)` (R223 to R227); the width is checked first. -/
def negotiate (cfg : Config) (rate width : Nat) : Except HostError Plan :=
  match effectiveWidth cfg width, masterOfRate rate with
  | none, _ => .error .unsupportedFormat
  | some _, none => .error .unsupportedSampleRate
  | some w, some m =>
    .ok
      { masterHz     := m
        bitClockHz   := 2 * w * rate
        frameClockHz := rate
        hostFormat   := hostFormat width
        fmtCode      := formatCode cfg width
        codecRole    := .slave }

/-! ## Assembler (R103 to R105) -/

/-- One line of a host program: a command with its operands (R103), a host access (R104), or a
pseudo-instruction (R105). -/
inductive AsmLine where
  | prepareAll (g : Group)
  | enableAll (g : Group)
  | disableAll (g : Group)
  | unprepareAll (g : Group)
  | selectMaster (hz : Word)
  | releaseMaster
  | applyStartup (cs : CodecSet)
  | setFmtSysclk (cs : CodecSet) (mclkHz fmt : Word)
  | powerUp (cs : CodecSet)
  | powerDown (cs : CodecSet)
  | setVolume (c : CodecId) (ch : Channel) (v : Word)
  | getVolume (c : CodecId) (ch : Channel)
  | readSynced (cs : CodecSet) (d : Control)
  | writeSynced (cs : CodecSet) (d : Control) (v : Word)
  | wr (off : Nat) (v : Word)
  | rd (off : Nat)
  | wait
  | clkUp (g : Group)
  | clkDown (g : Group)
  | setVolumePair (c : CodecId) (v0 v1 : Word)
  deriving DecidableEq, Repr

/-- The accesses of one command line (R103): ARG0 and ARG1 if it takes them, CMD, then WAIT. -/
def commandActions (cfg : Config) (i : Instr) (arg0 arg1 : Option Word) : List HostAction :=
  (arg0.toList.map fun v => HostAction.write (cfg.windowBase + 0x04) 32 v) ++
  (arg1.toList.map fun v => HostAction.write (cfg.windowBase + 0x08) 32 v) ++
  [.write cfg.windowBase 32 (encode i), .wait]

/-- What a line assembles to (R103 to R105). A pseudo-instruction stops at its first line that does not end OK,
but for CLK_DOWN, whose second line always runs. -/
def AsmLine.assemble (cfg : Config) : AsmLine → List HostAction
  | .prepareAll g => commandActions cfg (.prepareAll g) none none
  | .enableAll g => commandActions cfg (.enableAll g) none none
  | .disableAll g => commandActions cfg (.disableAll g) none none
  | .unprepareAll g => commandActions cfg (.unprepareAll g) none none
  | .selectMaster hz => commandActions cfg .selectMaster (some hz) none
  | .releaseMaster => commandActions cfg .releaseMaster none none
  | .applyStartup cs => commandActions cfg (.applyStartup cs) none none
  | .setFmtSysclk cs m f => commandActions cfg (.setFmtSysclk cs) (some m) (some f)
  | .powerUp cs => commandActions cfg (.powerUp cs) none none
  | .powerDown cs => commandActions cfg (.powerDown cs) none none
  | .setVolume c ch v => commandActions cfg (.setVolume c ch) (some v) none
  | .getVolume c ch => commandActions cfg (.getVolume c ch) none none
  | .readSynced cs d => commandActions cfg (.readSynced cs d) none none
  | .writeSynced cs d v => commandActions cfg (.writeSynced cs d) (some v) none
  | .wr off v => [.write (cfg.windowBase + off) 32 v]
  | .rd off => [.read (cfg.windowBase + off) 32]
  | .wait => [.wait]
  | .clkUp g =>
    let second := commandActions cfg (.enableAll g) none none
    commandActions cfg (.prepareAll g) none none ++ [.skipIf .lastFailed second.length] ++ second
  | .clkDown g =>
    commandActions cfg (.disableAll g) none none ++ commandActions cfg (.unprepareAll g) none none
  | .setVolumePair c v0 v1 =>
    let second := commandActions cfg (.setVolume c .ch1) (some v1) none
    commandActions cfg (.setVolume c .ch0) (some v0) none ++ [.skipIf .lastFailed second.length] ++ second

/-- The text of a group operand (R103). -/
def Group.text : Group → String
  | .bclk => "bclk"
  | .lrclk => "lrclk"
  | .both => "both"

/-- The text of a codec-set operand (R103). -/
def CodecSet.text : CodecSet → String
  | .l => "l"
  | .r => "r"
  | .lr => "lr"

/-- The text of a codec and channel operand (R103). -/
def volumeText (c : CodecId) (ch : Channel) : String :=
  (match c with | .left => "l" | .right => "r") ++ (match ch with | .ch0 => ".0" | .ch1 => ".1")

/-- The text of a control operand (R103). -/
def Control.text : Control → String
  | .anticlip => "anticlip"
  | .dither => "dither"
  | .filter => "filter"

/-- A number operand, in decimal (R103). -/
def wordText (v : Word) : String := toString v.toNat

/-- The text of a line (R103 to R105). -/
def AsmLine.text : AsmLine → String
  | .prepareAll g => "PREPARE_ALL " ++ Group.text g
  | .enableAll g => "ENABLE_ALL " ++ Group.text g
  | .disableAll g => "DISABLE_ALL " ++ Group.text g
  | .unprepareAll g => "UNPREPARE_ALL " ++ Group.text g
  | .selectMaster hz => "SELECT_MASTER " ++ wordText hz
  | .releaseMaster => "RELEASE_MASTER"
  | .applyStartup cs => "APPLY_STARTUP " ++ CodecSet.text cs
  | .setFmtSysclk cs m f => "SET_FMT_SYSCLK " ++ CodecSet.text cs ++ ", " ++ wordText m ++ ", " ++ wordText f
  | .powerUp cs => "POWER_UP " ++ CodecSet.text cs
  | .powerDown cs => "POWER_DOWN " ++ CodecSet.text cs
  | .setVolume c ch v => "SET_VOLUME " ++ volumeText c ch ++ ", " ++ wordText v
  | .getVolume c ch => "GET_VOLUME " ++ volumeText c ch
  | .readSynced cs d => "READ_SYNCED " ++ CodecSet.text cs ++ ", " ++ Control.text d
  | .writeSynced cs d v => "WRITE_SYNCED " ++ CodecSet.text cs ++ ", " ++ Control.text d ++ ", " ++ wordText v
  | .wr off v => "WR " ++ toString off ++ ", " ++ wordText v
  | .rd off => "RD " ++ toString off
  | .wait => "WAIT"
  | .clkUp g => "CLK_UP " ++ Group.text g
  | .clkDown g => "CLK_DOWN " ++ Group.text g
  | .setVolumePair c v0 v1 =>
    "SET_VOLUME_PAIR " ++ (match c with | .left => "l" | .right => "r") ++ ", " ++ wordText v0 ++ ", " ++ wordText v1

/-! ## Session sequences (R221, R229 to R235) -/

/-- `cs`: every present codec. -/
def allCodecs (cfg : Config) : CodecSet :=
  match cfg.numCodecs with
  | .one => .l
  | .two => .lr

/-- Attach (R221): the instance, then the startup batch on every present codec, before any session. If the batch ends
other than OK the attach fails with ConfigError and there is no instance (R283): the host detaches (log 14). -/
def attachActions (cfg : Config) (b : Binding) : List HostAction :=
  [.attach cfg b] ++ (AsmLine.applyStartup (allCodecs cfg)).assemble cfg ++
  [.skipIf .lastOk 2, .detach, .fail .attach .configError]

/-- `on_startup` (R222): no command. -/
def onStartup : List HostAction := []

/-- `on_shutdown` (R233): every line whatever the earlier ones report; the session goes to Closed (R234). -/
def onShutdown (cfg : Config) : List HostAction :=
  (AsmLine.powerDown (allCodecs cfg)).assemble cfg ++ (AsmLine.disableAll .both).assemble cfg ++
  (AsmLine.unprepareAll .both).assemble cfg ++ AsmLine.releaseMaster.assemble cfg ++ [.session .closed]

/-- Detach (R282): the shutdown first if the session is not Closed. -/
def detachActions (cfg : Config) : List HostAction :=
  [.skipIf .sessionClosed (onShutdown cfg).length] ++ onShutdown cfg ++ [.detach]

/-- A part of a stage of `on_hw_params` and what follows it (R229): if the part fails, the host reports the stage
and leaves out the rest (R232). -/
def stageThen (stage : Stage) (l rest : List HostAction) : List HostAction :=
  l ++ [.failUnlessOk stage rest.length] ++ rest

/-- Several actions of a stage in order, stopping at the first that fails (R230, R231). -/
def actionsThen (stage : Stage) (l rest : List HostAction) : List HostAction :=
  l.foldr (fun a rest => stageThen stage [a] rest) rest

/-- The topology step (R230): from BCLK_HOST up the parent chain to the oscillator, whose rate is read; then the rates
of the PLL stage and the multiplier stage. -/
def topologyStep : List HostAction :=
  [.getParent (.clock .bclkHost), .getParent .multiplier, .getParent .pll, .getRate .oscillator,
    .scaleRate .pll pllMult 1, .scaleRate .multiplier 1 multDiv]

/-- The rate step (R231): the rates of the present bit clocks, then of the present frame clocks. -/
def rateStep (cfg : Config) (plan : Plan) : List HostAction :=
  (groupBclk.map fun k => HostAction.setRate (.clock k) plan.bitClockHz) ++
  (groupLrclk cfg).map fun k => HostAction.setRate (.clock k) plan.frameClockHz

/-- Stages S2 to S7 of `on_hw_params` (R229, R232). The topology step is left out once it has run since the attach,
unless the host wants it again (R230). A failed S7 is followed by POWER_DOWN (R232). DESIGN CHOICE (log 33): ARG1 has
32 bits, so of a format code of 2^32 or more, which R7 allows where REG_DATA_BITS is above 32, the low 32 bits are
sent. -/
def sessionStages (cfg : Config) (plan : Plan) (topologyAgain : Bool) : List HostAction :=
  let cs := allCodecs cfg
  let m : Word := BitVec.ofNat 32 plan.masterHz
  let f : Word := BitVec.ofNat 32 plan.fmtCode
  let down := (AsmLine.powerDown cs).assemble cfg
  let s7 := (AsmLine.powerUp cs).assemble cfg ++
    [.failUnlessOk .powerUp 1, .session .streaming, .skipIf .lastOk down.length] ++ down
  let s6 := stageThen .clocks ((AsmLine.prepareAll .both).assemble cfg)
    (stageThen .clocks ((AsmLine.enableAll .both).assemble cfg) s7)
  let s5 := actionsThen .rates (rateStep cfg plan) s6
  let s4 := stageThen .master ((AsmLine.selectMaster m).assemble cfg) s5
  let s3 := actionsThen .topology topologyStep (.topologyDone :: s4)
  let skip := if topologyAgain then [] else [HostAction.skipIf .topologyDone (s3.length - s4.length)]
  stageThen .codecFmt ((AsmLine.setFmtSysclk cs m f).assemble cfg) (skip ++ s3)

/-- `on_hw_params(sample_rate_hz, bit_width)` (R229, R232, R234): from a session that is not Closed the shutdown runs
first; then the negotiation, whose failure issues no command, is reported, and leaves the session Closed (R223);
then the other stages. -/
def onHwParams (cfg : Config) (rate width : Nat) (topologyAgain : Bool) : List HostAction :=
  [.skipIf .sessionClosed (onShutdown cfg).length] ++ onShutdown cfg ++
  match negotiate cfg rate width with
  | .error e => [.fail .negotiate e]
  | .ok plan => .negotiated plan :: sessionStages cfg plan topologyAgain

/-! ## Control-surface entry points (R235) -/

/-- The settings of the anti-clipping control (R235). -/
inductive AnticlipMode where
  | off
  | on
  deriving DecidableEq, Repr

/-- The settings of the dither control (R235). -/
inductive DitherMode where
  | off
  | rpdf
  | tpdf
  | hpdf
  deriving DecidableEq, Repr

/-- A setting of an enumerated control (R235). -/
inductive ControlSetting where
  | anticlip (mode : AnticlipMode)
  | dither (mode : DitherMode)
  | filter (variant : Fin 5)
  deriving DecidableEq, Repr

/-- The value of an anti-clipping setting (R95, R235). -/
def anticlipValue : AnticlipMode → Nat
  | .off => 0
  | .on => 1

/-- The value of a dither setting (R95, R235). -/
def ditherValue : DitherMode → Nat
  | .off => 0
  | .rpdf => 1
  | .tpdf => 2
  | .hpdf => 3

/-- The control a setting belongs to. -/
def settingControl : ControlSetting → Control
  | .anticlip _ => .anticlip
  | .dither _ => .dither
  | .filter _ => .filter

/-- The value of a setting, as WRITE_SYNCED takes it and READ_SYNCED returns it (R95, R193, R194, R235). -/
def settingValue : ControlSetting → Nat
  | .anticlip m => anticlipValue m
  | .dither m => ditherValue m
  | .filter v => v

/-- The settings of a control in value order (R235). -/
def controlSettings : Control → List ControlSetting
  | .anticlip => [.anticlip .off, .anticlip .on]
  | .dither => [.dither .off, .dither .rpdf, .dither .tpdf, .dither .hpdf]
  | .filter => [.filter 0, .filter 1, .filter 2, .filter 3, .filter 4]

/-- The setting that a value of control d names; a value of no setting, which READ_SYNCED returns as read (R193), names
none. -/
def settingOfValue (d : Control) (v : Nat) : Option ControlSetting := (controlSettings d)[v]?

/-- The control-surface get entry point of an enumerated control (R235); that of an attenuation is the line
`getVolume`. -/
def controlGet (cfg : Config) (d : Control) : AsmLine := .readSynced (allCodecs cfg) d

/-- The control-surface set entry point of an enumerated control (R235); that of an attenuation is the line
`setVolume`. -/
def controlSet (cfg : Config) (d : Control) (v : Word) : AsmLine := .writeSynced (allCodecs cfg) d v

/-- The set entry point called with a named setting (R235). -/
def controlSetTo (cfg : Config) (x : ControlSetting) : AsmLine :=
  controlSet cfg (settingControl x) (BitVec.ofNat 32 (settingValue x))

end Sys2Proof.Machine
end

