-- ==== Sys2Proof/Safety.lean ====
section
/-! DEFINITION. What counts as a sound state and a sound step, in the words the claims use: how a command ends and
moves on, what a command may write (R149), and the invariants of R48. -/
namespace Sys2Proof.Machine

/-! ## Where the engine is -/

/-- A command has just been issued: the engine is busy at its start (R121). -/
def State.atStart (s : State) : Prop := s.eng.busy = true ∧ s.eng.step = some Position.start

/-- The engine is busy in the body of a command, at position p (R35). -/
def State.inBody (s : State) (p : Position) : Prop :=
  s.eng.busy = true ∧ s.eng.step = some p ∧ p.phase = .body

/-- The engine is running command i (R99, R120). -/
def State.runs (s : State) (i : Instr) : Prop := s.eng.busy = true ∧ s.command = .ok i

/-- The command has ended with this code and these info fields (R126). -/
def State.endedWith (t : State) (code : Code) (id addr : Nat) : Prop :=
  t.eng.busy = false ∧ t.eng.step = none ∧ t.win.code = code ∧
  t.win.infoId = BitVec.ofNat 8 id ∧ t.win.infoAddr = BitVec.ofNat 8 addr

/-- The engine is still busy, and STATUS is what it was: no result yet (R288). -/
def stillBusy (s t : State) : Prop :=
  t.eng.busy = s.eng.busy ∧ t.win.code = s.win.code ∧ t.win.infoId = s.win.infoId ∧ t.win.infoAddr = s.win.infoAddr

/-- From s to t a command of n elements passed its checks: it is at the first request of its first element, or,
with no element, it has ended OK (R126, R150). -/
def entered (s t : State) (n : Nat) : Prop :=
  if n = 0 then t.endedWith .ok 0 0
  else stillBusy s t ∧ ∃ q, t.eng.step = some q ∧ q.phase = .body ∧ q.elem = 0 ∧ q.req = 0

/-- From s to t a command of n elements completed its current element: it is at the first request of the next
one, or it has ended OK (R126). -/
def movedOn (s t : State) (n : Nat) : Prop :=
  if s.position.elem + 1 < n then
    stillBusy s t ∧ t.eng.step = some { s.position with elem := s.position.elem + 1, req := 0 }
  else t.endedWith .ok 0 0

/-- From s to t a command went on to the next request of its element. -/
def toNextRequest (s t : State) : Prop :=
  stillBusy s t ∧ t.eng.step = some { s.position with req := s.position.req + 1 }

/-- Command i, run for one engine step at s, answers a next state, and P holds of it. -/
def completes (i : Instr) (s : State) (P : State → Prop) : Prop := ∃ t, exec i s = .next t ∧ P t

/-- From s to t exactly these requests (and settle events) were recorded, in this order (R84). -/
def recorded (s t : State) (evs : List Event) : Prop := t.history = s.history ++ evs

/-- The next answer of the agents, and what is left after it (R148). -/
def answered (s : State) (d : Answer) : Prop := ∃ rest, s.env.answers = some d :: rest

/-- From s to t nothing changed but STATUS and the engine's position (R253, R254, R255). -/
def onlyStatusChanged (s t : State) : Prop :=
  { t with
    win := { t.win with code := s.win.code, infoId := s.win.infoId, infoAddr := s.win.infoAddr }
    eng := { t.eng with busy := s.eng.busy, step := s.eng.step } } = s

/-- v is `(base & ~clear) | set` within REG_DATA_BITS (R143), bit by bit. -/
def isRmwValue (cfg : Config) (base clear set v : Nat) : Prop :=
  ∀ i, v.testBit i = (decide (i < cfg.regDataBits) && (set.testBit i || (base.testBit i && !clear.testBit i)))

/-- A transport read answered by d succeeds: always under the reference codec model (R61, R74). -/
def readOk (s : State) (d : Answer) : Bool := s.ref.plugged || d.ok

/-- The value a transport read answered by d returns (R61, R74). -/
def readBack (s : State) (c : CodecId) (a : Nat) (d : Answer) : Nat :=
  if s.ref.plugged then (s.ref.codec c).readReg s.cfg a else d.value % 2 ^ s.cfg.regDataBits

/-- What `WriteReg` leaves of codec c's registers and power state on the answer `ok` (R142): the shadow entry at a,
every other entry, and `pd`. -/
def registerWritten (s t : State) (c : CodecId) (a v : Nat) (ok : Bool) : Prop :=
  t.shadow c a = (if ok then some v else none) ∧
  (∀ c' a', (c', a') ≠ (c, a) → t.shadow c' a' = s.shadow c' a') ∧
  (t.codec c).pd =
    (if a ≠ s.cfg.addrFmtctl then (s.codec c).pd
     else if ok = false then .unknown
     else if v &&& s.cfg.pdMask ≠ 0 then .down
     else .up)

/-- The sysclk association of codec c is the rate m (R188). -/
def sysclkIs (t : State) (c : CodecId) (m : Word) : Prop :=
  (t.codec c).sysclkValid = true ∧ (t.codec c).sysclk = m

/-- Codec c has no sysclk association (R32). -/
def sysclkCleared (t : State) (c : CodecId) : Prop :=
  (t.codec c).sysclkValid = false ∧ (t.codec c).sysclk = 0

/-- The sysclk association of codec c is unchanged. -/
def sysclkKept (s t : State) (c : CodecId) : Prop :=
  (t.codec c).sysclkValid = (s.codec c).sysclkValid ∧ (t.codec c).sysclk = (s.codec c).sysclk

/-- `ANY_UP` (R131), said of the codecs. -/
def someCodecUp (s : State) : Prop := ∃ c, present s.cfg c = true ∧ (s.codec c).pd = .up

/-! ## What a command leaves alone -/

/-- What no step of a command changes: the parameters (R20), the latched command and operands (R121), the operand
registers (R38), a held write, the host. -/
def hostSideKept (s t : State) : Prop :=
  t.cfg = s.cfg ∧ t.attached = s.attached ∧ t.eng.cur = s.eng.cur ∧
  t.win.cmd = s.win.cmd ∧ t.win.arg0 = s.win.arg0 ∧ t.win.arg1 = s.win.arg1 ∧
  t.held = s.held ∧ t.host = s.host

/-- FLAGS and DATA are unchanged. -/
def flagsAndDataKept (s t : State) : Prop :=
  t.win.glitchRisk = s.win.glitchRisk ∧ t.win.teardownFault = s.win.teardownFault ∧ t.win.data = s.win.data

/-- Every shadow entry of codec c but the one at `store` is unchanged; so is every register of the reference codec
(R33, R69). -/
def registersKeptBut (s t : State) (store : Option (CodecId × Nat)) : Prop :=
  ∀ c a, store ≠ some (c, a) →
    t.shadow c a = s.shadow c a ∧ (t.ref.codec c).readReg t.cfg a = (s.ref.codec c).readReg s.cfg a

/-- The power state and the sysclk association of codec c are unchanged. -/
def powerKept (s t : State) (c : CodecId) : Prop :=
  (t.codec c).pd = (s.codec c).pd ∧ (t.codec c).sysclk = (s.codec c).sysclk ∧
  (t.codec c).sysclkValid = (s.codec c).sysclkValid

/-- The codec a step of a batch works on (R146). -/
def currentCodec (cs : CodecSet) (s : State) : Option CodecId := (codecList cs)[s.position.elem]?

/-- The codec register a step of command i at s writes if its request is answered: the same codec and address the
meaning uses. -/
def storeTarget (i : Instr) (s : State) : Option (CodecId × Nat) :=
  match s.position.phase with
  | .start => none
  | .guards => none
  | .body =>
    match i with
    | .prepareAll _ => none
    | .enableAll _ => none
    | .disableAll _ => none
    | .unprepareAll _ => none
    | .selectMaster => none
    | .releaseMaster => none
    | .applyStartup cs =>
      match currentCodec cs s, s.position.req with
      | some c, r + 1 => (s.cfg.startupBatch[r]?).map fun e => (c, e.1)
      | _, _ => none
    | .setFmtSysclk cs => (currentCodec cs s).map fun c => (c, s.cfg.addrFmtctl)
    | .powerUp cs => (currentCodec cs s).map fun c => (c, s.cfg.addrFmtctl)
    | .powerDown cs => (currentCodec cs s).map fun c => (c, s.cfg.addrFmtctl)
    | .setVolume c ch =>
      some (c, match s.position.req with
        | 0 => addrAttLsb s.cfg ch
        | _ + 1 => addrAttMsb s.cfg ch)
    | .getVolume _ _ => none
    | .readSynced _ _ => none
    | .writeSynced cs d => (currentCodec cs s).map fun c => (c, (enumDesc s.cfg d).addr)

/-- Command i is at a request it has still to make, or at the settle wait: the step asks an agent for an answer (R123,
R148). -/
def hasRequest (i : Instr) (s : State) : Prop :=
  s.position.phase = .body ∧
  match i with
  | .prepareAll g => ∃ k, (groupList s.cfg g)[s.position.elem]? = some k ∧ s.clk.prepared k = false
  | .enableAll g => ∃ k, (groupList s.cfg g)[s.position.elem]? = some k ∧ s.clk.enabled k = false
  | .disableAll g => ∃ k, (groupList s.cfg g).reverse[s.position.elem]? = some k ∧ s.clk.enabled k = true
  | .unprepareAll g => ∃ k, (groupList s.cfg g).reverse[s.position.elem]? = some k ∧ s.clk.prepared k = true
  | .selectMaster => isMasterRate s.eng.cur.arg0 = true
  | .releaseMaster =>
    (s.position.req = 0 ∧ s.clk.gateEnabled = true) ∨ (1 ≤ s.position.req ∧ s.clk.gatePrepared = true)
  | .applyStartup cs =>
    ∃ c r, currentCodec cs s = some c ∧ s.position.req = r + 1 ∧ r < s.cfg.startupBatch.length
  | .setFmtSysclk cs => ∃ c, currentCodec cs s = some c ∧ s.shadow c s.cfg.addrFmtctl ≠ none
  | .powerUp cs => ∃ c, currentCodec cs s = some c ∧ s.shadow c s.cfg.addrFmtctl ≠ none
  | .powerDown cs => ∃ c, currentCodec cs s = some c
  | .setVolume _ _ => True
  | .getVolume _ _ => True
  | .readSynced cs _ => ∃ c, currentCodec cs s = some c
  | .writeSynced cs d => ∃ c, currentCodec cs s = some c ∧ s.shadow c (enumDesc s.cfg d).addr ≠ none

/-! ## What the host does to FLAGS -/

/-- The host's next move writes 1 to bit b of FLAGS, with effect: the engine is idle (R44, R122, R265). -/
def writesFlagOne (s : State) (b : Nat) : Prop :=
  s.eng.busy = false ∧ ∃ v : Word, v.getLsbD b = true ∧
    (s.held = some { reg := .flags, value := v } ∨
      s.held = none ∧ ∃ rest, s.host.actions = .write (s.cfg.windowBase + 0x24) 32 v :: rest)

/-- The host's next move makes a new instance or discards the one there is (R280, R282). -/
def attachesOrDetaches (s : State) : Prop :=
  s.held = none ∧
    ((s.attached = false ∧ ∃ cfg b rest, s.host.actions = .attach cfg b :: rest) ∨
      (s.attached = true ∧ s.eng.busy = false ∧ ∃ rest, s.host.actions = .detach :: rest))

/-! ## A command from its issue to its end -/

/-- At most n engine steps of command i, stopping when it has ended. -/
def runExec (i : Instr) : Nat → State → Host.Outcome State Fault Refusal
  | 0, s => .next s
  | n + 1, s =>
    if s.eng.busy then
      match exec i s with
      | .next t => runExec i n t
      | .fault r => .fault r
      | .refused r => .refused r
    else .next s

/-- Command i, run for at most n engine steps from s, is then at a state of which P holds. -/
def completesIn (n : Nat) (i : Instr) (s : State) (P : State → Prop) : Prop := ∃ t, runExec i n s = .next t ∧ P t

/-- Command i, run from its issue at s, passes the first j iterations of its guard loops, a step each after its first
one, and is then at iteration j with nothing changed but the position (R10, R123). -/
def reachesGuard (i : Instr) (s : State) (j : Nat) : Prop :=
  completesIn (1 + j) i s fun t =>
    stillBusy s t ∧ onlyStatusChanged s t ∧
    ∃ q, t.eng.step = some q ∧ q.phase = .guards ∧ q.elem = j ∧ q.req = 0

/-- Command i, run from its issue at s, is refused by iteration j of its guard loops, naming id and the guard (R127, R145):
it reaches the iteration, and the next step ends it there with SEQUENCE_ERROR and nothing changed but STATUS. -/
def refusedAtGuard (i : Instr) (s : State) (j id guard : Nat) : Prop :=
  reachesGuard i s j ∧
  completesIn (2 + j) i s fun t => t.endedWith .sequenceError id guard ∧ onlyStatusChanged s t

/-- Command i, run from its issue at s, passes all j iterations of its guard loops, a step each after its first one, and
enters its body of n elements with nothing changed but STATUS and the position (R10, R127, R150). -/
def passesGuards (i : Instr) (s : State) (j n : Nat) : Prop :=
  (∀ k < j, reachesGuard i s k) ∧
  completesIn (1 + j) i s fun t => entered s t n ∧ onlyStatusChanged s t

/-- The agents answer at least n coming requests, every one with success. -/
def answersOk (s : State) (n : Nat) : Prop :=
  n ≤ s.env.answers.length ∧ ∀ a ∈ s.env.answers, ∃ d : Answer, a = some d ∧ d.ok = true

/-- The agents answer at least n coming requests, one way or the other. -/
def answersCome (s : State) (n : Nat) : Prop :=
  n ≤ s.env.answers.length ∧ ∀ a ∈ s.env.answers, a ≠ none

/-- A bound on the engine steps of a command whose requests are all answered at once. -/
def stepBound (cfg : Config) : Instr → Nat
  | .prepareAll g => 1 + (groupList cfg g).length
  | .enableAll g => 1 + ((presentCodecs cfg).length + (groupList cfg g).length) + (groupList cfg g).length
  | .disableAll g => 1 + (groupList cfg g).length
  | .unprepareAll g => 1 + (groupList cfg g).length + (groupList cfg g).length
  | .selectMaster => 5
  | .releaseMaster => 3
  | .applyStartup cs => 1 + (codecList cs).length + (codecList cs).length * (2 + cfg.startupBatch.length)
  | .setFmtSysclk cs => 1 + (codecList cs).length + (codecList cs).length
  | .powerUp cs => 1 + ((groupBoth cfg).length + (codecList cs).length) + (codecList cs).length
  | .powerDown cs => 1 + (codecList cs).length
  | .setVolume _ _ => 3
  | .getVolume _ _ => 3
  | .readSynced cs _ => 1 + (2 * (codecList cs).length - 1)
  | .writeSynced cs _ => 1 + (codecList cs).length

/-- What the operand checks and guards of command i ask of the state at its issue (R125, R132 to R136), with the known
shadows that its read-modify-writes start from (R143). -/
def checksPass (i : Instr) (s : State) : Prop :=
  match i with
  | .prepareAll _ => True
  | .enableAll g =>
    (∀ c ∈ presentCodecs s.cfg, (s.codec c).sysclkValid = true) ∧
    ∀ k ∈ groupList s.cfg g, s.clk.prepared k = true
  | .disableAll _ => True
  | .unprepareAll g => ∀ k ∈ groupList s.cfg g, s.clk.enabled k = false
  | .selectMaster => isMasterRate s.eng.cur.arg0 = true ∧ s.clk.gatePrepared = false
  | .releaseMaster => True
  | .applyStartup cs => ∀ c ∈ codecList cs, (s.codec c).pd ≠ .up
  | .setFmtSysclk cs =>
    isMasterRate s.eng.cur.arg0 = true ∧ withinMask s.eng.cur.arg1.toNat s.cfg.fmtMask = true ∧
    ∀ c ∈ codecList cs, (s.codec c).pd = .down ∧ s.shadow c s.cfg.addrFmtctl ≠ none
  | .powerUp cs =>
    s.clk.masterClockEnabled = true ∧ (∀ k ∈ groupBoth s.cfg, s.clk.enabled k = true) ∧
    ∀ c ∈ codecList cs, (s.codec c).sysclkValid = true ∧ s.shadow c s.cfg.addrFmtctl ≠ none
  | .powerDown _ => True
  | .setVolume c ch => s.eng.cur.arg0.toNat ≤ volMax ∧ channelLegal s.cfg c ch = true
  | .getVolume c ch => channelLegal s.cfg c ch = true
  | .readSynced _ _ => True
  | .writeSynced cs d =>
    enumLegal d s.eng.cur.arg0.toNat = true ∧
    ∀ c ∈ codecList cs, s.shadow c (enumDesc s.cfg d).addr ≠ none

/-! ## Invariants (R48) -/

/-- R48 items 1 and 2: enabled implies prepared, for every consumer clock and the gate (R24, R26). -/
def clocksOrdered (s : State) : Prop :=
  (∀ k, s.clk.enabled k = true → s.clk.prepared k = true) ∧
  (s.clk.gateEnabled = true → s.clk.gatePrepared = true)

/-- R48 item 3 (R27). -/
def masterSettled (s : State) : Prop :=
  s.clk.masterClockEnabled = true →
    s.clk.gateEnabled = true ∧ s.clk.muxSel ≠ none ∧ s.clk.settlePending = false

/-- R48 item 4 (R29). -/
def settleWithinSelection (s : State) : Prop :=
  s.clk.settlePending = true → s.runs .selectMaster

/-- R48 item 5 (R32): a valid sysclk is a master rate of a codec whose power state is known, an invalid one is 0. -/
def sysclkSound (x : CodecState) : Prop :=
  (x.sysclkValid = true → (x.pd = .down ∨ x.pd = .up) ∧ isMasterRate x.sysclk = true) ∧
  (x.sysclkValid = false → x.sysclk = 0)

/-- R48 item 7: absent clocks and codecs keep their reset values. -/
def absentAtReset (s : State) : Prop :=
  (∀ k, clockPresent s.cfg k = false → s.clk.flags k = Lifecycle.idle) ∧
  (∀ c, present s.cfg c = false → s.codec c = CodecState.reset)

/-- R48 item 8: a known power state has a known format-control shadow whose power-down bit agrees. -/
def powerMatchesShadow (s : State) (c : CodecId) : Prop :=
  ((s.codec c).pd = .down → ∃ v, s.shadow c s.cfg.addrFmtctl = some v ∧ v &&& s.cfg.pdMask ≠ 0) ∧
  ((s.codec c).pd = .up → ∃ v, s.shadow c s.cfg.addrFmtctl = some v ∧ v &&& s.cfg.pdMask = 0)

/-- The shadow map of codec c is in canonical form, and its known entries are register values (R33). -/
def shadowSound (s : State) (c : CodecId) : Prop :=
  Memory.wf (shadowDefault s.cfg) (s.codec c).shadow ∧
  ∀ a v, s.shadow c a = some v → v < 2 ^ s.cfg.regDataBits

/-- The reference codec's register file is in canonical form (R69). -/
def refSound (s : State) (c : CodecId) : Prop := Memory.wf (resetDefault s.cfg) (s.ref.codec c).reg

/-- The engine is busy exactly while it has a step (R120, R126); CMD is the latched word (R37); a detached block
runs and holds nothing (R282). -/
def engineSound (s : State) : Prop :=
  (s.eng.busy = true ↔ s.eng.step ≠ none) ∧ s.win.cmd = s.eng.cur.cmd ∧
  (s.attached = false → s.eng.busy = false ∧ s.held = none)

/-- The guard loops of command i at s (R132 to R136, R187). -/
def guardsOf (s : State) : Instr → List GuardCheck
  | .prepareAll _ => []
  | .enableAll g => enableGuards g s
  | .disableAll _ => []
  | .unprepareAll g => unprepareGuards g s
  | .selectMaster => []
  | .releaseMaster => []
  | .applyStartup cs => startupGuards cs s
  | .setFmtSysclk cs => fmtGuards cs s
  | .powerUp cs => powerUpGuards cs s
  | .powerDown _ => []
  | .setVolume _ _ => []
  | .getVolume _ _ => []
  | .readSynced _ _ => []
  | .writeSynced _ _ => []

/-- What the first check of a command that has guard loops leaves to them (R125, R133). -/
def firstCheckPassed (s : State) : Instr → Prop
  | .setFmtSysclk _ =>
    isMasterRate s.eng.cur.arg0 = true ∧ withinMask s.eng.cur.arg1.toNat s.cfg.fmtMask = true
  | .powerUp _ => s.clk.masterClockEnabled = true
  | _ => True

/-- What the guard loops of a command may rely on at position p: its first check and the iterations before p are past
(R127), and p is one of its iterations. -/
def guardsSound (s : State) (p : Position) (i : Instr) : Prop :=
  p.elem < (guardsOf s i).length ∧ (∀ x ∈ (guardsOf s i).take p.elem, x.fails = false) ∧ firstCheckPassed s i

/-- What the body of a command may rely on once its checks are past (R127), at position p. -/
def bodySound (s : State) (p : Position) : Instr → Prop
  | .prepareAll _ => True
  | .enableAll g => ∀ k ∈ groupList s.cfg g, s.clk.prepared k = true
  | .disableAll _ => True
  | .unprepareAll g => ∀ k ∈ groupList s.cfg g, s.clk.enabled k = false
  | .selectMaster =>
    masterSource s.eng.cur.arg0 ≠ none ∧ s.clk.masterClockEnabled = false ∧
    (p.req = 0 → s.clk.gatePrepared = false ∧ s.clk.gateEnabled = false ∧ s.clk.settlePending = false) ∧
    (p.req = 1 → s.clk.muxSel ≠ none ∧ s.clk.gatePrepared = false ∧ s.clk.gateEnabled = false ∧
      s.clk.settlePending = false) ∧
    (p.req = 2 → s.clk.muxSel ≠ none ∧ s.clk.gatePrepared = true ∧ s.clk.gateEnabled = false ∧
      s.clk.settlePending = false) ∧
    (3 ≤ p.req → s.clk.muxSel ≠ none ∧ s.clk.gatePrepared = true ∧ s.clk.gateEnabled = true ∧
      s.clk.settlePending = true)
  | .releaseMaster => s.clk.masterClockEnabled = false ∧ (1 ≤ p.req → s.clk.gateEnabled = false)
  | .applyStartup _ => True
  | .setFmtSysclk cs =>
    isMasterRate s.eng.cur.arg0 = true ∧ withinMask s.eng.cur.arg1.toNat s.cfg.fmtMask = true ∧
    ∀ c ∈ (codecList cs).drop p.elem, (s.codec c).pd = .down
  | .powerUp cs =>
    s.clk.masterClockEnabled = true ∧ (∀ k ∈ groupBoth s.cfg, s.clk.enabled k = true) ∧
    ∀ c ∈ (codecList cs).drop p.elem, (s.codec c).sysclkValid = true
  | .powerDown _ => True
  | .setVolume _ _ => True
  | .getVolume _ _ => True
  | .readSynced _ _ => True
  | .writeSynced _ _ => True

/-- The premises of the body hold in the body of a command, and those of the guard loops in them. -/
def positionSound (s : State) : Prop :=
  ∀ i p, s.runs i → s.eng.step = some p →
    (p.phase = .body → bodySound s p i) ∧ (p.phase = .guards → guardsSound s p i)

/-- A command that is not past its checks has no settle wait pending. -/
def startSound (s : State) : Prop :=
  ∀ p, s.eng.step = some p → p.phase ≠ .body → s.clk.settlePending = false

/-- The invariant: R48 items 1 to 5, 7 and 8 with what the induction needs. (Item 6 speaks of the moment a codec is
powered up; `bodySound` holds what it asks for throughout POWER_UP's body.) -/
structure Inv (s : State) : Prop where
  ordered  : clocksOrdered s
  master   : masterSettled s
  settle   : settleWithinSelection s
  sysclk   : ∀ c, sysclkSound (s.codec c)
  absent   : absentAtReset s
  power    : ∀ c, powerMatchesShadow s c
  shadow   : ∀ c, shadowSound s c
  ref      : ∀ c, refSound s c
  engine   : engineSound s
  position : positionSound s
  start    : startSound s

end Sys2Proof.Machine
end

