-- ==== Sys2Proof/Certificates/Slice0/Obligations.lean ====
section
/-! DEFINITION. The statements for the provers. Each docstring names the rule of spec/ it formalises, or the log
entry whose choice it rests on. "answered s d" says that the agents' next answer is d; a statement holds whatever
the answers are. The statement of a command's rule begins with the pattern its words match (R98). -/
open Sys2Proof Sys2Proof.Machine

/-! ## Encoding -/

/-- R106, R103, R36: every encoding example, as the host accesses its line assembles to, with the command its word
decodes to; and the illegal examples. The absolute addresses rest on the model's window base 0 (log 11), the one
`wait` that ends a line on log 19. -/
def Obligations.SpecWordsDecodeAsListed : Prop :=
  (AsmLine.prepareAll .bclk).assemble Config.reference = [.write 0 32 0x00000001, .wait] ∧
  (AsmLine.prepareAll .both).assemble Config.reference = [.write 0 32 0x00000201, .wait] ∧
  (AsmLine.enableAll .both).assemble Config.reference = [.write 0 32 0x00000202, .wait] ∧
  (AsmLine.disableAll .both).assemble Config.reference = [.write 0 32 0x00000203, .wait] ∧
  (AsmLine.unprepareAll .lrclk).assemble Config.reference = [.write 0 32 0x00000104, .wait] ∧
  (AsmLine.selectMaster 22579200).assemble Config.reference =
    [.write 4 32 0x01588800, .write 0 32 0x00000005, .wait] ∧
  (AsmLine.selectMaster 24576000).assemble Config.reference =
    [.write 4 32 0x01770000, .write 0 32 0x00000005, .wait] ∧
  AsmLine.releaseMaster.assemble Config.reference = [.write 0 32 0x00000006, .wait] ∧
  (AsmLine.applyStartup .lr).assemble Config.reference = [.write 0 32 0x00000C10, .wait] ∧
  (AsmLine.setFmtSysclk .lr 22579200 0x002).assemble Config.reference =
    [.write 4 32 0x01588800, .write 8 32 0x00000002, .write 0 32 0x00000C11, .wait] ∧
  (AsmLine.powerUp .lr).assemble Config.reference = [.write 0 32 0x00000C12, .wait] ∧
  (AsmLine.powerDown .l).assemble Config.reference = [.write 0 32 0x00000413, .wait] ∧
  (AsmLine.setVolume .left .ch0 500).assemble Config.reference =
    [.write 4 32 0x000001F4, .write 0 32 0x00000414, .wait] ∧
  (AsmLine.setVolume .right .ch1 1023).assemble Config.reference =
    [.write 4 32 0x000003FF, .write 0 32 0x00001814, .wait] ∧
  (AsmLine.getVolume .left .ch1).assemble Config.reference = [.write 0 32 0x00001415, .wait] ∧
  (AsmLine.readSynced .lr .filter).assemble Config.reference = [.write 0 32 0x00004C16, .wait] ∧
  (AsmLine.writeSynced .lr .dither 2).assemble Config.reference =
    [.write 4 32 0x00000002, .write 0 32 0x00002C17, .wait] ∧
  decode .two 0x00000001 = .ok (.prepareAll .bclk) ∧
  decode .two 0x00000201 = .ok (.prepareAll .both) ∧
  decode .two 0x00000202 = .ok (.enableAll .both) ∧
  decode .two 0x00000203 = .ok (.disableAll .both) ∧
  decode .two 0x00000104 = .ok (.unprepareAll .lrclk) ∧
  decode .two 0x00000005 = .ok .selectMaster ∧
  decode .two 0x00000006 = .ok .releaseMaster ∧
  decode .two 0x00000C10 = .ok (.applyStartup .lr) ∧
  decode .two 0x00000C11 = .ok (.setFmtSysclk .lr) ∧
  decode .two 0x00000C12 = .ok (.powerUp .lr) ∧
  decode .two 0x00000413 = .ok (.powerDown .l) ∧
  decode .two 0x00000414 = .ok (.setVolume .left .ch0) ∧
  decode .two 0x00001814 = .ok (.setVolume .right .ch1) ∧
  decode .two 0x00001415 = .ok (.getVolume .left .ch1) ∧
  decode .two 0x00004C16 = .ok (.readSynced .lr .filter) ∧
  decode .two 0x00002C17 = .ok (.writeSynced .lr .dither) ∧
  decode .two 0x00000000 = .error .unassignedOpcode ∧
  decode .two 0x00000301 = .error .reservedGroup ∧
  decode .two 0x00000010 = .error .emptyCodecSet ∧
  decode .two 0x00000C14 = .error .notOneCodec ∧
  decode .two 0x0000EC16 = .error .reservedControl ∧
  decode .two 0x00010001 = .error .unusedFieldSet ∧
  decode .two 0x00000405 = .error .unusedFieldSet

/-- R98, R99: on an instance with n codecs a word decodes to a command exactly when it is that command's encoding and
every codec the command names is present. So decoding undoes encoding, and no two words mean the same command. -/
def Obligations.DecodeAcceptsExactlyTheEncodings : Prop :=
  ∀ (n : NumCodecs) (w : Word) (i : Instr),
    decode n w = .ok i ↔ encode i = w ∧ i.wellFormed n = true

/-- R100: a word is illegal exactly when OPC is unassigned, or a field its command does not use is nonzero, or RSV is
nonzero, or GRP is 3, or CSET is 0, names an absent codec or is not one codec for the volume commands, or DESC is
above 2; and issuing one ends the command at once with no other effect. -/
def Obligations.IllegalWordsAreTheListedOnes : Prop :=
  (∀ (n : NumCodecs) (w : Word),
    (∃ e, decode n w = .error e) ↔
      let opc := (w.extractLsb' 0 8).toNat
      let grp := (w.extractLsb' 8 2).toNat
      let cset := (w.extractLsb' 10 2).toNat
      let ch := (w.extractLsb' 12 1).toNat
      let desc := (w.extractLsb' 13 3).toNat
      let rsv := (w.extractLsb' 16 16).toNat
      let usesGrp := 1 ≤ opc ∧ opc ≤ 4
      let usesCset := 0x10 ≤ opc ∧ opc ≤ 0x17
      let usesCh := opc = 0x14 ∨ opc = 0x15
      let usesDesc := opc = 0x16 ∨ opc = 0x17
      (opc = 0 ∨ (7 ≤ opc ∧ opc ≤ 0x0F) ∨ 0x18 ≤ opc) ∨
      (¬usesGrp ∧ grp ≠ 0) ∨ (¬usesCset ∧ cset ≠ 0) ∨ (¬usesCh ∧ ch ≠ 0) ∨ (¬usesDesc ∧ desc ≠ 0) ∨
      rsv ≠ 0 ∨ (usesGrp ∧ grp = 3) ∨ (usesCset ∧ cset = 0) ∨ (usesCset ∧ n = .one ∧ 2 ≤ cset) ∨
      (usesCh ∧ cset = 3) ∨ (usesDesc ∧ 2 < desc)) ∧
  (∀ (s : State) (e : Illegal), s.command = .error e →
    ∃ t, engineStep s = .next t ∧ t.endedWith .illegalCommand 0 0 ∧ onlyStatusChanged s t)

/-! ## The engine and the host window -/

/-- R123 with the model's interleaving (log 4): a step of a busy block in which the engine has the turn is `exec` of
the decoded command, and nothing else around it; the turn is all that is used up. In particular the step after a
word is placed for the engine runs exactly that word's command from its issue. -/
def Obligations.StepRunsTheDecodedCommand : Prop :=
  (∀ (s : State) (i : Instr), s.attached = true → configOk s.cfg = true → s.runs i →
    step s.giveTurnToEngine = exec i s ∧
    (s.pickTurn.1 = false → (∃ e, s.pickTurn.2 = { s with env := e }) ∧ step s = exec i s.pickTurn.2)) ∧
  (∀ (s : State) (i : Instr) (nbits w : Nat), configOk s.cfg = true →
    decode s.cfg.numCodecs (tableWord nbits w) = .ok i →
    step (s.withFetchWord nbits w) = exec i (State.issue { s with attached := true } (tableWord nbits w)))

/-- R121, R38: a host write of w to CMD while the engine is idle latches the word and both operands, clears STATUS and
makes the engine busy at the start of the command, in one step, and changes nothing else; the command then runs on
the latched operands: whatever the live ARG registers hold, every engine step does the same and leaves them alone; a
host write to ARG0 or ARG1 while the engine is idle stores the value, which a read then returns, and changes nothing
else. -/
def Obligations.IdleCmdWriteIssues : Prop :=
  (∀ (s : State) (w : Word) (rest : List HostAction),
    s.attached = true → configOk s.cfg = true → s.eng.busy = false → s.held = none →
    s.host.actions = .write s.cfg.windowBase 32 w :: rest →
    step s = .next
      { s with
        win := { s.win with cmd := w, code := .ok, infoId := 0, infoAddr := 0 }
        eng := { busy := true, cur := { cmd := w, arg0 := s.win.arg0, arg1 := s.win.arg1 },
                 step := some Position.start }
        host := { s.host with actions := rest } }) ∧
  (∀ (i : Instr) (s t : State) (x y : Word), exec i s = .next t →
    exec i { s with win := { s.win with arg0 := x, arg1 := y } } =
      .next { t with win := { t.win with arg0 := x, arg1 := y } }) ∧
  (∀ (s : State) (v : Word) (rest : List HostAction),
    s.attached = true → configOk s.cfg = true → s.eng.busy = false → s.held = none →
    (s.host.actions = .write (s.cfg.windowBase + 0x04) 32 v :: rest →
      step s = .next { s with win := { s.win with arg0 := v }, host := { s.host with actions := rest } }) ∧
    (s.host.actions = .write (s.cfg.windowBase + 0x08) 32 v :: rest →
      step s = .next { s with win := { s.win with arg1 := v }, host := { s.host with actions := rest } }) ∧
    s.readWindow .arg0 = s.win.arg0 ∧ s.readWindow .arg1 = s.win.arg1)

/-- R122, with a held write standing in the host's way (log 29): while the engine is busy a host write to CMD, ARG0,
ARG1 or FLAGS is held and has no effect; a held write waits while the engine is busy and takes effect, as if written at
that moment, once it is idle; a host read while busy completes at once and returns the current value. -/
def Obligations.BusyWritesHoldUntilIdle : Prop :=
  (∀ (s : State) (off : Nat) (r : WindowReg) (v : Word) (rest : List HostAction),
    (off, r) ∈ [(0x00, WindowReg.cmd), (0x04, .arg0), (0x08, .arg1), (0x24, .flags)] →
    s.attached = true → s.eng.busy = true → s.held = none →
    s.host.actions = .write (s.cfg.windowBase + off) 32 v :: rest →
    s.hostStep = .next { s with held := some { reg := r, value := v }, host := { s.host with actions := rest } }) ∧
  (∀ (s : State) (h : HeldWrite), s.held = some h → s.eng.busy = true → s.hostStep = .next s) ∧
  (∀ (s : State) (h : HeldWrite) (off : Nat),
    (off, h.reg) ∈ [(0x00, WindowReg.cmd), (0x04, .arg0), (0x08, .arg1), (0x24, .flags)] →
    s.attached = true → s.held = some h → s.eng.busy = false →
    s.hostStep =
      State.hostStep { s with
        held := none
        host := { s.host with
          actions := .write (s.cfg.windowBase + off) 32 h.value :: s.host.actions } }) ∧
  (∀ (s : State) (off : Nat) (r : WindowReg) (rest : List HostAction),
    windowReg off = some r → s.attached = true → s.held = none →
    s.host.actions = .read (s.cfg.windowBase + off) 32 :: rest →
    s.hostStep = .next
      { s with
        host := { s.host with
          actions := rest
          readings := s.host.readings ++ [(s.cfg.windowBase + off, s.readWindow r)] } })

/-- R148 (and R123's hold): when the agent a command waits on gives no answer yet, the engine holds. At every position
of every command that has a request to make, the settle wait among them, the step changes nothing but the used-up
entry of the answers; at every other position it goes on without one and records no request. The answers as a list
in State are log 3, the division into steps log 2; that an outstanding request is not yet in the history is log 5,
and that GLITCH_RISK is set only with the answer is log 26. -/
def Obligations.EngineHoldsUntilAnswered : Prop :=
  ∀ (i : Instr) (s : State) (rest : List (Option Answer)), s.env.answers = none :: rest →
    (hasRequest i s → exec i s = .next { s with env := { s.env with answers := rest } }) ∧
    (¬ hasRequest i s → completes i s fun t => t.env = s.env ∧ recorded s t [])

/-- R64, R275: a host access that is not 32 bits wide at a multiple of 4 within the 64-byte window has no step. (That
accesses outside the window are refused too is log 10.) -/
def Obligations.UndefinedHostAccessesHaveNoStep : Prop :=
  ∀ (s : State) (addr width : Nat) (v : Word) (rest : List HostAction),
    s.attached = true → s.held = none →
    s.host.actions = .read addr width :: rest ∨ s.host.actions = .write addr width v :: rest →
    (s.hostStep = .refused .hostAccessUndefined ↔
      width ≠ 32 ∨ addr < s.cfg.windowBase ∨ s.cfg.windowBase + 64 ≤ addr ∨ (addr - s.cfg.windowBase) % 4 ≠ 0)

/-- R45: a host write to a read-only register or a reserved offset changes nothing, and every reserved bit reads 0. -/
def Obligations.ReadOnlyWritesAreIgnored : Prop :=
  (∀ (s : State) (off : Nat) (v : Word) (rest : List HostAction),
    off ∈ [0x0C, 0x10, 0x14, 0x18, 0x1C, 0x20, 0x28, 0x2C, 0x30, 0x34, 0x38, 0x3C] →
    s.attached = true → s.held = none →
    s.host.actions = .write (s.cfg.windowBase + off) 32 v :: rest →
    s.hostStep = .next { s with host := { s.host with actions := rest } }) ∧
  (∀ s : State,
    s.readWindow .reserved = 0 ∧
    (s.readWindow .status).extractLsb' 24 7 = 0 ∧
    (s.readWindow .clkstate).extractLsb' 6 2 = 0 ∧
    (s.readWindow .clkstate).extractLsb' 14 2 = 0 ∧
    (s.readWindow .clkstate).extractLsb' 22 10 = 0 ∧
    (s.readWindow .codecstate).extractLsb' 7 1 = 0 ∧
    (s.readWindow .codecstate).extractLsb' 15 1 = 0 ∧
    (s.readWindow .codecstate).extractLsb' 16 16 = 0 ∧
    (s.readWindow .flags).extractLsb' 2 30 = 0) ∧
  (∀ off ∈ [0x28, 0x2C, 0x30, 0x34, 0x38, 0x3C], windowReg off = some .reserved)

/-- R44, R265: FLAGS bit 0 is GLITCH_RISK and bit 1 TEARDOWN_FAULT; no engine step clears a flag; a host write while
idle clears each flag whose bit is 1 in the written value and leaves the other, and everything else, alone; and a step
of the machine, whoever moves, takes a flag from 1 to 0 only where the host's write of 1 to its bit takes effect with
the engine idle, at once or after it was held, or where an attach or a detach (log 14) resets the block. -/
def Obligations.FlagsAreStickyUntilTheHostClearsThem : Prop :=
  (∀ s : State,
    (s.readWindow .flags).getLsbD 0 = s.win.glitchRisk ∧
    (s.readWindow .flags).getLsbD 1 = s.win.teardownFault) ∧
  (∀ (i : Instr) (s t : State), exec i s = .next t →
    (s.win.glitchRisk = true → t.win.glitchRisk = true) ∧
    (s.win.teardownFault = true → t.win.teardownFault = true)) ∧
  (∀ (s : State) (v : Word) (rest : List HostAction),
    s.attached = true → s.eng.busy = false → s.held = none →
    s.host.actions = .write (s.cfg.windowBase + 0x24) 32 v :: rest →
    s.hostStep = .next
      { s with
        win := { s.win with
          glitchRisk := if v.getLsbD 0 then false else s.win.glitchRisk
          teardownFault := if v.getLsbD 1 then false else s.win.teardownFault }
        host := { s.host with actions := rest } }) ∧
  (∀ s t : State, step s = .next t →
    (s.win.glitchRisk = true → t.win.glitchRisk = false → writesFlagOne s 0 ∨ attachesOrDetaches s) ∧
    (s.win.teardownFault = true → t.win.teardownFault = false → writesFlagOne s 1 ∨ attachesOrDetaches s))

/-- R36, R37, R38, R40: each offset of the window holds the register of the table; reads of CMD, ARG0, ARG1 and DATA
return the stored values. R39, R41, R42, R43, R251: the fields of STATUS are the result code's number, the two info
fields and BUSY; each field of CLKSTATE reflects the state field it names at the moment of the read, an absent clock's
bits read 0; byte c of CODECSTATE describes codec c, an absent codec's byte reads 0; SYSCLK_L and SYSCLK_R return the
codec's rate, 0 for an absent codec or an invalid association. -/
def Obligations.ReadbackRegistersReflectTheState : Prop :=
  (windowReg 0x00 = some .cmd ∧ windowReg 0x04 = some .arg0 ∧ windowReg 0x08 = some .arg1 ∧
    windowReg 0x0C = some .status ∧ windowReg 0x10 = some .data ∧ windowReg 0x14 = some .clkstate ∧
    windowReg 0x18 = some .codecstate ∧ windowReg 0x1C = some .sysclkL ∧ windowReg 0x20 = some .sysclkR ∧
    windowReg 0x24 = some .flags ∧
    (∀ off ∈ [0x28, 0x2C, 0x30, 0x34, 0x38, 0x3C], windowReg off = some .reserved)) ∧
  (∀ s : State,
    s.readWindow .cmd = s.win.cmd ∧ s.readWindow .arg0 = s.win.arg0 ∧ s.readWindow .arg1 = s.win.arg1 ∧
    s.readWindow .data = s.win.data) ∧
  (∀ s : State,
    (s.readWindow .status).extractLsb' 0 8 =
      (match s.win.code with
        | .ok => 0x00
        | .illegalCommand => 0x01
        | .invalidOperand => 0x02
        | .sequenceError => 0x03
        | .stateUnknown => 0x04
        | .prepareError => 0x10
        | .enableError => 0x11
        | .rateSetError => 0x12
        | .unsupportedMasterRate => 0x14
        | .registerWriteError => 0x20
        | .registerReadError => 0x21
        | .desyncError => 0x22) ∧
    (s.readWindow .status).extractLsb' 8 8 = s.win.infoId ∧
    (s.readWindow .status).extractLsb' 16 8 = s.win.infoAddr ∧
    (s.readWindow .status).extractLsb' 24 7 = 0 ∧
    (s.readWindow .status).getLsbD 31 = s.eng.busy) ∧
  (∀ s : State,
    (∀ k : Consumer,
      (s.readWindow .clkstate).getLsbD k.id = (clockPresent s.cfg k && s.clk.prepared k) ∧
      (s.readWindow .clkstate).getLsbD (8 + k.id) = (clockPresent s.cfg k && s.clk.enabled k)) ∧
    (s.readWindow .clkstate).extractLsb' 6 2 = 0 ∧
    (s.readWindow .clkstate).extractLsb' 14 2 = 0 ∧
    (s.readWindow .clkstate).getLsbD 16 = s.clk.gatePrepared ∧
    (s.readWindow .clkstate).getLsbD 17 = s.clk.gateEnabled ∧
    (s.readWindow .clkstate).getLsbD 18 = s.clk.masterClockEnabled ∧
    (s.readWindow .clkstate).getLsbD 19 = s.clk.settlePending ∧
    (s.readWindow .clkstate).extractLsb' 20 2 =
      (match s.clk.muxSel with
        | some .src44k1 => 0
        | some .src48k => 1
        | none => 3) ∧
    (s.readWindow .clkstate).extractLsb' 22 10 = 0) ∧
  (∀ (s : State) (c : CodecId), present s.cfg c = true →
    (s.readWindow .codecstate).extractLsb' (8 * codecNum c) 2 =
      (match (s.codec c).pd with
        | .unknown => 0
        | .down => 1
        | .up => 2) ∧
    (s.readWindow .codecstate).getLsbD (8 * codecNum c + 2) = (s.codec c).sysclkValid ∧
    (s.readWindow .codecstate).getLsbD (8 * codecNum c + 3) = true ∧
    (s.readWindow .codecstate).extractLsb' (8 * codecNum c + 4) 3 =
      (match diffMode s.cfg c with
        | .stereo => 0
        | .stereoReversed => 1
        | .monoLeft => 2
        | .monoRight => 3) ∧
    (s.readWindow .codecstate).getLsbD (8 * codecNum c + 7) = false) ∧
  (∀ (s : State) (c : CodecId), present s.cfg c = false →
    (s.readWindow .codecstate).extractLsb' (8 * codecNum c) 8 = 0) ∧
  (∀ s : State, (s.readWindow .codecstate).extractLsb' 16 16 = 0) ∧
  (∀ s : State,
    s.readWindow .sysclkL = (if present s.cfg .left ∧ s.left.sysclkValid then s.left.sysclk else 0) ∧
    s.readWindow .sysclkR = (if present s.cfg .right ∧ s.right.sysclkValid then s.right.sysclk else 0))

/-! ## Reset and attach -/

/-- R46: the state after reset, for every parameter record (the values log entries choose are not stated here). -/
def Obligations.ResetStateIsAsListed : Prop :=
  ∀ cfg : Config,
    let s := State.resetWith cfg
    s.cfg = cfg ∧
    (∀ k, s.clk.prepared k = false ∧ s.clk.enabled k = false) ∧
    s.clk.gatePrepared = false ∧ s.clk.gateEnabled = false ∧ s.clk.masterClockEnabled = false ∧
    s.clk.muxSel = none ∧ s.clk.settlePending = false ∧
    (∀ c, (s.codec c).pd = .unknown ∧ (s.codec c).sysclk = 0 ∧ (s.codec c).sysclkValid = false) ∧
    (∀ c a, s.shadow c a = some (resetDefault cfg a)) ∧
    s.eng.busy = false ∧ s.eng.step = none ∧
    s.eng.cur.cmd = 0 ∧ s.eng.cur.arg0 = 0 ∧ s.eng.cur.arg1 = 0 ∧
    s.readWindow .cmd = 0 ∧ s.readWindow .arg0 = 0 ∧ s.readWindow .arg1 = 0 ∧
    s.readWindow .status = 0 ∧ s.readWindow .data = 0 ∧ s.readWindow .flags = 0

/-- R284: after reset the block waits, idle, for the host; CMD reads 0, which is an illegal word, and issuing it ends
with ILLEGAL_COMMAND. That an idle step changes nothing is log 20, the turn given to the engine log 4. -/
def Obligations.ResetBlockWaitsForTheFirstCommand : Prop :=
  ∀ cfg : Config, configOk cfg = true →
    step (State.resetWith cfg) = .next (State.resetWith cfg) ∧
    (State.resetWith cfg).readWindow .cmd = 0 ∧
    (∃ e, decode cfg.numCodecs 0 = .error e) ∧
    ∃ t, step ((State.resetWith cfg).issue 0).giveTurnToEngine = .next t ∧ t.endedWith .illegalCommand 0 0

/-- R7, R280, R282, R283: an attach creates an instance exactly when the parameters meet the constraints, every clock
that CLOCK_SHAPE needs has a handle and every codec that NUM_CODECS names can be bound; the instance then has these
parameters, which meet every constraint R7 lists, and every field of the block at its reset value. A detach of an
idle block discards every field; while the engine is busy a detach is no step. `configOk` also asks what log 8
deduces (REG_ADDR_BITS in its range, the masks and the LSB field within a register); the fault is log 9; attach and
detach as host actions, with what outlives them, are log 14, the binding as an operand of the attach log 31. -/
def Obligations.AttachRefusesParametersThatViolateTheConstraints : Prop :=
  (∀ (s : State) (cfg : Config) (b : Binding) (rest : List HostAction),
    s.attached = false → s.held = none → s.host.actions = .attach cfg b :: rest →
    let whole := (∀ k, clockPresent cfg k = true → Clock.consumer k ∈ b.handles) ∧
      Clock.gate ∈ b.handles ∧ Clock.mux ∈ b.handles ∧ ∀ c, present cfg c = true → c ∈ b.codecs
    (configOk cfg = false ∨ ¬ whole → step s = .fault .configError) ∧
    (configOk cfg = true → whole → ∃ t, step s = .next t) ∧
    (∀ t, step s = .next t → whole ∧
      t.attached = true ∧ t.cfg = cfg ∧
      t.clk = (State.resetWith cfg).clk ∧ t.left = (State.resetWith cfg).left ∧
      t.right = (State.resetWith cfg).right ∧ t.eng = (State.resetWith cfg).eng ∧
      t.win = (State.resetWith cfg).win ∧ t.held = none ∧
      cfg.volLsbBits < 10 ∧ 10 - cfg.volLsbBits + 1 ≤ cfg.regDataBits ∧
      (∃ b, cfg.latchMask = 2 ^ b ∧ 10 - cfg.volLsbBits ≤ b) ∧
      (∃ b, cfg.pdMask = 2 ^ b) ∧ cfg.pdMask &&& cfg.fmtMask = 0 ∧
      (∀ a ∈ [cfg.addrAttLsb0, cfg.addrAttMsb0, cfg.addrAttLsb1, cfg.addrAttMsb1, cfg.addrFmtctl,
          cfg.enumAnticlip.addr, cfg.enumDither.addr, cfg.enumFilter.addr], a < 2 ^ cfg.regAddrBits) ∧
      (∀ e ∈ cfg.startupBatch, e.1 < 2 ^ cfg.regAddrBits ∧ e.2 < 2 ^ cfg.regDataBits) ∧
      (∀ e ∈ cfg.resetDefaults, e.1 < 2 ^ cfg.regAddrBits ∧ e.2 < 2 ^ cfg.regDataBits) ∧
      [cfg.addrAttLsb0, cfg.addrAttMsb0, cfg.addrAttLsb1, cfg.addrAttMsb1, cfg.addrFmtctl].Nodup ∧
      (∀ d, (enumDesc cfg d).addr ∉
        [cfg.addrAttLsb0, cfg.addrAttMsb0, cfg.addrAttLsb1, cfg.addrAttMsb1, cfg.addrFmtctl]) ∧
      2 ≤ 2 ^ cfg.enumAnticlip.width ∧ 4 ≤ 2 ^ cfg.enumDither.width ∧ 5 ≤ 2 ^ cfg.enumFilter.width ∧
      (∀ d, (enumDesc cfg d).shift + (enumDesc cfg d).width ≤ cfg.regDataBits) ∧
      cfg.muxSrc44k1 ≠ cfg.muxSrc48k ∧
      cfg.fmtCode16 &&& cfg.fmtMask = cfg.fmtCode16 ∧ cfg.fmtCode32 &&& cfg.fmtMask = cfg.fmtCode32 ∧
      (∃ pre v post, cfg.startupBatch = pre ++ (cfg.addrFmtctl, v) :: post ∧
        (∀ e ∈ post, e.1 ≠ cfg.addrFmtctl) ∧ v &&& cfg.pdMask ≠ 0) ∧
      (∀ pre ch v post, cfg.startupBatch = pre ++ (addrAttMsb cfg ch, v) :: post →
        v &&& cfg.latchMask ≠ 0 ∧ ∃ e ∈ pre, e.1 = addrAttLsb cfg ch))) ∧
  (∀ (s : State) (rest : List HostAction),
    s.attached = true → configOk s.cfg = true → s.held = none → s.host.actions = .detach :: rest →
    (s.eng.busy = false → ∃ t, step s = .next t ∧ t.attached = false ∧ t.host.actions = rest ∧
      t.clk = (State.resetWith s.cfg).clk ∧ t.left = (State.resetWith s.cfg).left ∧
      t.right = (State.resetWith s.cfg).right ∧ t.eng = (State.resetWith s.cfg).eng ∧
      t.win = (State.resetWith s.cfg).win ∧ t.held = none ∧ t.history = []) ∧
    (s.eng.busy = true → s.hostStep = .next s ∧ s.pickTurn.1 = false))

/-! ## The group commands -/

/-- R151: PREPARE_ALL walks the group in start order; a prepared clock gets no request; a request answered `ok` sets the
flag and goes on, one answered `fail` ends the command with PREPARE_ERROR and leaves the clock's flags alone. Its
division into steps is the model's (log 2). -/
def Obligations.PrepareAllPreparesEachUnpreparedClock : Prop :=
  ∀ (g : Group) (s : State),
    encode (.prepareAll g) &&& 0xFFFFFCFF = 0x00000001 ∧
    (s.atStart → completes (.prepareAll g) s fun t =>
      entered s t (groupList s.cfg g).length ∧ onlyStatusChanged s t) ∧
    (∀ p k, s.inBody p → (groupList s.cfg g)[p.elem]? = some k →
      (s.clk.prepared k = true → completes (.prepareAll g) s fun t =>
        movedOn s t (groupList s.cfg g).length ∧ onlyStatusChanged s t) ∧
      (∀ d, s.clk.prepared k = false → answered s d → completes (.prepareAll g) s fun t =>
        recorded s t [.clkReq .prepare (.consumer k) d.ok] ∧ flagsAndDataKept s t ∧
        (if d.ok then t.clk = s.clk.setPrepared k true ∧ movedOn s t (groupList s.cfg g).length
         else t.clk = s.clk ∧ t.endedWith .prepareError k.id 0)))

/-- R152, R132, R135, R10: ENABLE_ALL is refused, naming the first present codec without a sysclk, else the first clock
of the group that is not prepared, each iteration of its guard loops being an engine step; past its guards it enables
the clocks that are not enabled, in start order, and ends at the first request answered `fail`. Its division into steps
is the model's (log 2). -/
def Obligations.EnableAllEnablesEachStoppedClock : Prop :=
  ∀ (g : Group) (s : State),
    encode (.enableAll g) &&& 0xFFFFFCFF = 0x00000002 ∧
    (s.atStart →
      (∀ pre c post, presentCodecs s.cfg = pre ++ c :: post →
        (∀ x ∈ pre, (s.codec x).sysclkValid = true) → (s.codec c).sysclkValid = false →
        refusedAtGuard (.enableAll g) s pre.length (codecNum c) 0x01) ∧
      ((∀ x ∈ presentCodecs s.cfg, (s.codec x).sysclkValid = true) →
        (∀ pre k post, groupList s.cfg g = pre ++ k :: post →
          (∀ x ∈ pre, s.clk.prepared x = true) → s.clk.prepared k = false →
          refusedAtGuard (.enableAll g) s ((presentCodecs s.cfg).length + pre.length) k.id 0x06) ∧
        ((∀ x ∈ groupList s.cfg g, s.clk.prepared x = true) →
          passesGuards (.enableAll g) s ((presentCodecs s.cfg).length + (groupList s.cfg g).length)
            (groupList s.cfg g).length))) ∧
    (∀ p k, s.inBody p → (groupList s.cfg g)[p.elem]? = some k →
      (s.clk.enabled k = true → completes (.enableAll g) s fun t =>
        movedOn s t (groupList s.cfg g).length ∧ onlyStatusChanged s t) ∧
      (∀ d, s.clk.enabled k = false → answered s d → completes (.enableAll g) s fun t =>
        recorded s t [.clkReq .enable (.consumer k) d.ok] ∧ flagsAndDataKept s t ∧
        (if d.ok then t.clk = s.clk.setEnabled k true ∧ movedOn s t (groupList s.cfg g).length
         else t.clk = s.clk ∧ t.endedWith .enableError k.id 0)))

/-- R153, R137, R141: DISABLE_ALL samples ANY_UP once, then walks the group in reverse; an enabled clock gets a
`disable` request, and its flag is cleared whatever the answer; GLITCH_RISK is set if a codec was up, TEARDOWN_FAULT
on `fail`. Its division into steps is the model's (log 2). -/
def Obligations.DisableAllDisablesEachEnabledClock : Prop :=
  ∀ (g : Group) (s : State),
    encode (.disableAll g) &&& 0xFFFFFCFF = 0x00000003 ∧
    (s.atStart → completes (.disableAll g) s fun t =>
      entered s t (groupList s.cfg g).length ∧ onlyStatusChanged s t ∧
      (∀ q, t.eng.step = some q → (q.up = true ↔ someCodecUp s))) ∧
    (∀ p k, s.inBody p → (groupList s.cfg g).reverse[p.elem]? = some k →
      (s.clk.enabled k = false → completes (.disableAll g) s fun t =>
        movedOn s t (groupList s.cfg g).length ∧ onlyStatusChanged s t) ∧
      (∀ d, s.clk.enabled k = true → answered s d → completes (.disableAll g) s fun t =>
        recorded s t [.clkReq .disable (.consumer k) d.ok] ∧
        t.clk = s.clk.setEnabled k false ∧
        t.win.glitchRisk = (s.win.glitchRisk || p.up) ∧
        t.win.teardownFault = (s.win.teardownFault || !d.ok) ∧
        movedOn s t (groupList s.cfg g).length))

/-- R154, R136, R141, R10: UNPREPARE_ALL is refused, naming the first enabled clock in teardown order, each iteration
of its guard loop being an engine step; past its guard it unprepares the prepared clocks in reverse, and a clock's flag
is cleared whatever the answer. Its division into steps is the model's (log 2). -/
def Obligations.UnprepareAllUnpreparesEachPreparedClock : Prop :=
  ∀ (g : Group) (s : State),
    encode (.unprepareAll g) &&& 0xFFFFFCFF = 0x00000004 ∧
    (s.atStart →
      (∀ pre k post, (groupList s.cfg g).reverse = pre ++ k :: post →
        (∀ x ∈ pre, s.clk.enabled x = false) → s.clk.enabled k = true →
        refusedAtGuard (.unprepareAll g) s pre.length k.id 0x07) ∧
      ((∀ x ∈ groupList s.cfg g, s.clk.enabled x = false) →
        passesGuards (.unprepareAll g) s (groupList s.cfg g).length (groupList s.cfg g).length)) ∧
    (∀ p k, s.inBody p → (groupList s.cfg g).reverse[p.elem]? = some k →
      (s.clk.prepared k = false → completes (.unprepareAll g) s fun t =>
        movedOn s t (groupList s.cfg g).length ∧ onlyStatusChanged s t) ∧
      (∀ d, s.clk.prepared k = true → answered s d → completes (.unprepareAll g) s fun t =>
        recorded s t [.clkReq .unprepare (.consumer k) d.ok] ∧
        t.clk = s.clk.setPrepared k false ∧
        t.win.glitchRisk = s.win.glitchRisk ∧
        t.win.teardownFault = (s.win.teardownFault || !d.ok) ∧
        movedOn s t (groupList s.cfg g).length))

/-! ## The master clock commands -/

/-- R155, R161, R162, R163, R165, R166: SELECT_MASTER refuses any other rate and a prepared gate, then issues the mux
request, the gate prepare and the gate enable, whose `ok` starts the settle wait; when the timer fires, no earlier
than 20 ms after the start, the master clock counts as enabled. Its division into steps is the model's (log 2). The
time stamp is log 13. -/
def Obligations.SelectMasterStartsTheGateAndSettles : Prop :=
  ∀ (s : State),
    encode .selectMaster &&& 0xFFFFFFFF = 0x00000005 ∧
    (s.atStart →
      (s.eng.cur.arg0.toNat ≠ 22579200 → s.eng.cur.arg0.toNat ≠ 24576000 →
        completes .selectMaster s fun t =>
          t.endedWith .unsupportedMasterRate 0 0 ∧ onlyStatusChanged s t) ∧
      (s.eng.cur.arg0.toNat = 22579200 ∨ s.eng.cur.arg0.toNat = 24576000 →
        (s.clk.gatePrepared = true → completes .selectMaster s fun t =>
          t.endedWith .sequenceError 6 0x08 ∧ onlyStatusChanged s t) ∧
        (s.clk.gatePrepared = false → completes .selectMaster s fun t =>
          entered s t 1 ∧ onlyStatusChanged s t))) ∧
    (∀ p d src sel, s.inBody p → answered s d →
      (s.eng.cur.arg0.toNat = 22579200 ∧ src = .src44k1 ∧ sel = s.cfg.muxSrc44k1) ∨
        (s.eng.cur.arg0.toNat = 24576000 ∧ src = .src48k ∧ sel = s.cfg.muxSrc48k) →
      (p.req = 0 → completes .selectMaster s fun t =>
        recorded s t [.clkReq (.setParentSource sel) .mux d.ok] ∧ flagsAndDataKept s t ∧
        (if d.ok then t.clk = { s.clk with muxSel := some src } ∧ toNextRequest s t
         else t.clk = { s.clk with muxSel := none } ∧ t.endedWith .rateSetError 7 0)) ∧
      (p.req = 1 → completes .selectMaster s fun t =>
        recorded s t [.clkReq .prepare .gate d.ok] ∧ flagsAndDataKept s t ∧
        (if d.ok then t.clk = { s.clk with gatePrepared := true } ∧ toNextRequest s t
         else t.clk = s.clk ∧ t.endedWith .prepareError 6 0)) ∧
      (p.req = 2 → completes .selectMaster s fun t =>
        flagsAndDataKept s t ∧
        (if d.ok then
          recorded s t [.clkReq .enable .gate true, .settleStart s.now] ∧
          t.clk = { s.clk with gateEnabled := true, settlePending := true } ∧ toNextRequest s t
         else
          recorded s t [.clkReq .enable .gate false] ∧ t.clk = s.clk ∧ t.endedWith .enableError 6 0)) ∧
      (p.req = 3 → completes .selectMaster s fun t =>
        recorded s t [.settleEnd t.now] ∧ flagsAndDataKept s t ∧ s.now + 20 ≤ t.now ∧
        t.clk = { s.clk with settlePending := false, masterClockEnabled := true } ∧
        t.endedWith .ok 0 0))

/-- R156, R137, R141: RELEASE_MASTER clears the master flag and samples ANY_UP at its first step, then disables and
unprepares the gate, each only if set and whatever the answer; the mux selection is kept. Its division into steps is
the model's (log 2). -/
def Obligations.ReleaseMasterStopsTheGate : Prop :=
  ∀ (s : State),
    encode .releaseMaster &&& 0xFFFFFFFF = 0x00000006 ∧
    (s.atStart → completes .releaseMaster s fun t =>
      entered s t 1 ∧ recorded s t [] ∧ flagsAndDataKept s t ∧
      t.clk = { s.clk with masterClockEnabled := false } ∧
      (∀ q, t.eng.step = some q → (q.up = true ↔ someCodecUp s))) ∧
    (∀ p, s.inBody p →
      (p.req = 0 → s.clk.gateEnabled = false → completes .releaseMaster s fun t =>
        toNextRequest s t ∧ onlyStatusChanged s t) ∧
      (∀ d, p.req = 0 → s.clk.gateEnabled = true → answered s d → completes .releaseMaster s fun t =>
        recorded s t [.clkReq .disable .gate d.ok] ∧
        t.clk = { s.clk with gateEnabled := false } ∧
        t.win.glitchRisk = (s.win.glitchRisk || p.up) ∧
        t.win.teardownFault = (s.win.teardownFault || !d.ok) ∧ toNextRequest s t) ∧
      (p.req = 1 → s.clk.gatePrepared = false → completes .releaseMaster s fun t =>
        t.endedWith .ok 0 0 ∧ onlyStatusChanged s t) ∧
      (∀ d, p.req = 1 → s.clk.gatePrepared = true → answered s d → completes .releaseMaster s fun t =>
        recorded s t [.clkReq .unprepare .gate d.ok] ∧
        t.clk = { s.clk with gatePrepared := false } ∧
        t.win.glitchRisk = s.win.glitchRisk ∧
        t.win.teardownFault = (s.win.teardownFault || !d.ok) ∧ t.endedWith .ok 0 0))

/-! ## The codec power and format commands -/

/-- R187, R142, R10: APPLY_STARTUP is refused on a codec that is up, each iteration of its guard loop being an engine
step; for each codec it clears the sysclk association, then
writes the batch entry by entry, and ends at the first write answered `fail`. Its division into steps, with the
clearing a step of its own, is the model's (log 2). -/
def Obligations.ApplyStartupWritesTheBatch : Prop :=
  ∀ (cs : CodecSet) (s : State), (∀ c, shadowSound s c) →
    encode (.applyStartup cs) &&& 0xFFFFF3FF = 0x00000010 ∧
    (s.atStart →
      (∀ pre c post, codecList cs = pre ++ c :: post →
        (∀ x ∈ pre, (s.codec x).pd ≠ .up) → (s.codec c).pd = .up →
        refusedAtGuard (.applyStartup cs) s pre.length (codecNum c) 0x09) ∧
      ((∀ x ∈ codecList cs, (s.codec x).pd ≠ .up) →
        passesGuards (.applyStartup cs) s (codecList cs).length (codecList cs).length)) ∧
    (∀ p c, s.inBody p → (codecList cs)[p.elem]? = some c →
      (p.req = 0 → completes (.applyStartup cs) s fun t =>
        sysclkCleared t c ∧ toNextRequest s t ∧ recorded s t [] ∧
        (∀ a, t.shadow c a = s.shadow c a) ∧ (t.codec c).pd = (s.codec c).pd) ∧
      (∀ r a v d, p.req = r + 1 → s.cfg.startupBatch[r]? = some (a, v) → answered s d →
        completes (.applyStartup cs) s fun t =>
          recorded s t [.memWrite c a v d.ok] ∧ registerWritten s t c a v d.ok ∧
          (if d.ok then
            sysclkKept s t c ∧
            (if r + 1 < s.cfg.startupBatch.length then toNextRequest s t
             else movedOn s t (codecList cs).length)
           else
            t.endedWith .registerWriteError (codecNum c) a ∧
            (if a = s.cfg.addrFmtctl then sysclkCleared t c else sysclkKept s t c))))

/-- R188, R134, R142, R143, R10: SET_FMT_SYSCLK refuses a rate that is no master rate, a format code with bits outside
FMT_MASK, then a codec that is not down, each iteration of its guard loop being an engine step; for each codec it
writes the format bits over the shadow of the format-control register and, on `ok`, sets the sysclk association. Its
division into steps is the model's (log 2). -/
def Obligations.SetFmtSysclkWritesFormatAndRate : Prop :=
  ∀ (cs : CodecSet) (s : State), (∀ c, shadowSound s c) →
    encode (.setFmtSysclk cs) &&& 0xFFFFF3FF = 0x00000011 ∧
    (s.atStart →
      (s.eng.cur.arg0.toNat ≠ 22579200 ∧ s.eng.cur.arg0.toNat ≠ 24576000 ∨
          s.eng.cur.arg1.toNat &&& s.cfg.fmtMask ≠ s.eng.cur.arg1.toNat →
        completes (.setFmtSysclk cs) s fun t =>
          t.endedWith .invalidOperand 0 0 ∧ onlyStatusChanged s t) ∧
      ((s.eng.cur.arg0.toNat = 22579200 ∨ s.eng.cur.arg0.toNat = 24576000) →
        s.eng.cur.arg1.toNat &&& s.cfg.fmtMask = s.eng.cur.arg1.toNat →
        (∀ pre c post, codecList cs = pre ++ c :: post →
          (∀ x ∈ pre, (s.codec x).pd = .down) → (s.codec c).pd ≠ .down →
          refusedAtGuard (.setFmtSysclk cs) s pre.length (codecNum c) 0x05) ∧
        ((∀ x ∈ codecList cs, (s.codec x).pd = .down) →
          passesGuards (.setFmtSysclk cs) s (codecList cs).length (codecList cs).length))) ∧
    (∀ p c base v d, s.inBody p → (codecList cs)[p.elem]? = some c →
      s.shadow c s.cfg.addrFmtctl = some base →
      isRmwValue s.cfg base s.cfg.fmtMask s.eng.cur.arg1.toNat v → answered s d →
      completes (.setFmtSysclk cs) s fun t =>
        recorded s t [.memWrite c s.cfg.addrFmtctl v d.ok] ∧
        registerWritten s t c s.cfg.addrFmtctl v d.ok ∧
        (if d.ok then sysclkIs t c s.eng.cur.arg0 ∧ movedOn s t (codecList cs).length
         else sysclkCleared t c ∧ t.endedWith .registerWriteError (codecNum c) s.cfg.addrFmtctl))

/-- R189, R133, R142, R143, R10: POWER_UP is refused while the master clock is not ready, then on the first present
consumer clock that is not enabled, then on the first named codec without a sysclk, each iteration of its guard loops
being an engine step; for each codec it clears the power-down
bit over the shadow, and ends at the first write answered `fail`. Its division into steps is the model's (log 2). -/
def Obligations.PowerUpClearsThePowerDownBit : Prop :=
  ∀ (cs : CodecSet) (s : State), (∀ c, shadowSound s c) →
    encode (.powerUp cs) &&& 0xFFFFF3FF = 0x00000012 ∧
    (s.atStart →
      (s.clk.masterClockEnabled = false → completes (.powerUp cs) s fun t =>
        t.endedWith .sequenceError 6 0x02 ∧ onlyStatusChanged s t) ∧
      (s.clk.masterClockEnabled = true →
        (∀ pre k post, groupBoth s.cfg = pre ++ k :: post →
          (∀ x ∈ pre, s.clk.enabled x = true) → s.clk.enabled k = false →
          refusedAtGuard (.powerUp cs) s pre.length k.id 0x03) ∧
        ((∀ x ∈ groupBoth s.cfg, s.clk.enabled x = true) →
          (∀ pre c post, codecList cs = pre ++ c :: post →
            (∀ x ∈ pre, (s.codec x).sysclkValid = true) → (s.codec c).sysclkValid = false →
            refusedAtGuard (.powerUp cs) s ((groupBoth s.cfg).length + pre.length) (codecNum c) 0x04) ∧
          ((∀ x ∈ codecList cs, (s.codec x).sysclkValid = true) →
            passesGuards (.powerUp cs) s ((groupBoth s.cfg).length + (codecList cs).length)
              (codecList cs).length)))) ∧
    (∀ p c base v d, s.inBody p → (codecList cs)[p.elem]? = some c →
      s.shadow c s.cfg.addrFmtctl = some base →
      isRmwValue s.cfg base s.cfg.pdMask 0 v → answered s d →
      completes (.powerUp cs) s fun t =>
        recorded s t [.memWrite c s.cfg.addrFmtctl v d.ok] ∧
        registerWritten s t c s.cfg.addrFmtctl v d.ok ∧
        (if d.ok then sysclkKept s t c ∧ movedOn s t (codecList cs).length
         else sysclkCleared t c ∧ t.endedWith .registerWriteError (codecNum c) s.cfg.addrFmtctl))

/-- R190, R142: POWER_DOWN has no guard; for each codec it writes the power-down bit over the shadow, or over
STARTUP_FMTCTL where the shadow is unknown, clears the sysclk association whatever the answer, and goes on; after
the last codec it reports the first write that failed. Its division into steps is the model's (log 2). -/
def Obligations.PowerDownAttemptsEveryCodec : Prop :=
  ∀ (cs : CodecSet) (s : State), (∀ c, shadowSound s c) →
    encode (.powerDown cs) &&& 0xFFFFF3FF = 0x00000013 ∧
    (s.atStart → completes (.powerDown cs) s fun t =>
      entered s t (codecList cs).length ∧ onlyStatusChanged s t ∧
      (∀ q, t.eng.step = some q → q.first = none)) ∧
    (∀ p c base d, s.inBody p → (codecList cs)[p.elem]? = some c →
      (s.shadow c s.cfg.addrFmtctl = some base ∨
        s.shadow c s.cfg.addrFmtctl = none ∧ base = startupFmtctl s.cfg) →
      answered s d →
      completes (.powerDown cs) s fun t =>
        let first := p.first.or (if d.ok then none else some c)
        recorded s t [.memWrite c s.cfg.addrFmtctl (base ||| s.cfg.pdMask) d.ok] ∧
        registerWritten s t c s.cfg.addrFmtctl (base ||| s.cfg.pdMask) d.ok ∧
        sysclkCleared t c ∧
        (if p.elem + 1 < (codecList cs).length then
          stillBusy s t ∧ t.eng.step = some { p with elem := p.elem + 1, req := 0, first := first }
         else
          match first with
          | none => t.endedWith .ok 0 0
          | some c' => t.endedWith .registerWriteError (codecNum c') s.cfg.addrFmtctl))

/-! ## Volume and the stereo-shared controls -/

/-- R191, R180, R183, R142: SET_VOLUME refuses a value above 1023 and channel 1 of a mono codec; it writes the low raw
bits to the LSB register and, only after an `ok`, the high raw bits with the latch bit to the MSB register. Its
division into steps is the model's (log 2). -/
def Obligations.SetVolumeWritesLsbThenLatchedMsb : Prop :=
  ∀ (c : CodecId) (ch : Channel) (s : State), configOk s.cfg = true → (∀ c, shadowSound s c) →
    encode (.setVolume c ch) &&& 0xFFFFE3FF = 0x00000014 ∧
    (s.atStart →
      (1023 < s.eng.cur.arg0.toNat ∨
          (diffMode s.cfg c = .monoLeft ∨ diffMode s.cfg c = .monoRight) ∧ ch = .ch1 →
        completes (.setVolume c ch) s fun t =>
          t.endedWith .invalidOperand 0 0 ∧ onlyStatusChanged s t) ∧
      (s.eng.cur.arg0.toNat ≤ 1023 →
          diffMode s.cfg c = .stereo ∨ diffMode s.cfg c = .stereoReversed ∨ ch = .ch0 →
        completes (.setVolume c ch) s fun t => entered s t 1 ∧ onlyStatusChanged s t)) ∧
    (∀ p d, s.inBody p → s.eng.cur.arg0.toNat ≤ 1023 → answered s d →
      let v := s.eng.cur.arg0.toNat
      let raw := if volInvert s.cfg c ch then 1023 - v else v
      (p.req = 0 → completes (.setVolume c ch) s fun t =>
        recorded s t [.memWrite c (addrAttLsb s.cfg ch) (raw % 2 ^ s.cfg.volLsbBits) d.ok] ∧
        registerWritten s t c (addrAttLsb s.cfg ch) (raw % 2 ^ s.cfg.volLsbBits) d.ok ∧
        (if d.ok then toNextRequest s t
         else t.endedWith .registerWriteError (codecNum c) (addrAttLsb s.cfg ch))) ∧
      (p.req = 1 → completes (.setVolume c ch) s fun t =>
        recorded s t
          [.memWrite c (addrAttMsb s.cfg ch) (raw / 2 ^ s.cfg.volLsbBits ||| s.cfg.latchMask) d.ok] ∧
        registerWritten s t c (addrAttMsb s.cfg ch) (raw / 2 ^ s.cfg.volLsbBits ||| s.cfg.latchMask) d.ok ∧
        (if d.ok then t.endedWith .ok 0 0
         else t.endedWith .registerWriteError (codecNum c) (addrAttMsb s.cfg ch))))

/-- R192, R181, R183, R144: GET_VOLUME refuses channel 1 of a mono codec; it reads the LSB register, then the MSB
register, and DATA gets the logical value decoded from what the transport returned; a failed read ends the command,
and no read fails under the reference codec model (R61, R74).
Its division into steps is the model's (log 2). DATA is 32 bits (log 24). -/
def Obligations.GetVolumeDecodesWhatTheTransportReturns : Prop :=
  ∀ (c : CodecId) (ch : Channel) (s : State),
    encode (.getVolume c ch) &&& 0xFFFFE3FF = 0x00000015 ∧
    (s.atStart →
      ((diffMode s.cfg c = .monoLeft ∨ diffMode s.cfg c = .monoRight) ∧ ch = .ch1 →
        completes (.getVolume c ch) s fun t =>
          t.endedWith .invalidOperand 0 0 ∧ onlyStatusChanged s t) ∧
      (diffMode s.cfg c = .stereo ∨ diffMode s.cfg c = .stereoReversed ∨ ch = .ch0 →
        completes (.getVolume c ch) s fun t => entered s t 1 ∧ onlyStatusChanged s t)) ∧
    (∀ p d, s.inBody p → answered s d →
      (p.req = 0 → completes (.getVolume c ch) s fun t =>
        let x := readBack s c (addrAttLsb s.cfg ch) d
        t.win.data = s.win.data ∧
        (if readOk s d then
          recorded s t [.memRead c (addrAttLsb s.cfg ch) (some x)] ∧ stillBusy s t ∧
          t.eng.step = some { p with req := 1, vals := [x] }
         else
          recorded s t [.memRead c (addrAttLsb s.cfg ch) none] ∧
          t.endedWith .registerReadError (codecNum c) (addrAttLsb s.cfg ch))) ∧
      (∀ l, p.req = 1 → p.vals = [l] → completes (.getVolume c ch) s fun t =>
        let m := readBack s c (addrAttMsb s.cfg ch) d
        let raw := m % 2 ^ (10 - s.cfg.volLsbBits) * 2 ^ s.cfg.volLsbBits + l % 2 ^ s.cfg.volLsbBits
        if readOk s d then
          recorded s t [.memRead c (addrAttMsb s.cfg ch) (some m)] ∧ t.endedWith .ok 0 0 ∧
          t.win.data = BitVec.ofNat 32 (if volInvert s.cfg c ch then 1023 - raw else raw)
        else
          recorded s t [.memRead c (addrAttMsb s.cfg ch) none] ∧ t.win.data = s.win.data ∧
          t.endedWith .registerReadError (codecNum c) (addrAttMsb s.cfg ch)))

/-- R193, R185, R144, R10: READ_SYNCED reads the control's register from every codec of the set before it compares the
fields, the comparison being an engine step of its own; DATA gets the common field value, a difference ends with
DESYNC_ERROR and leaves DATA alone; no read fails under the reference codec model (R61, R74). Its division into steps
is the model's (log 2). DATA is 32 bits (log 24). -/
def Obligations.ReadSyncedReadsAllThenCompares : Prop :=
  ∀ (cs : CodecSet) (e : Control) (s : State),
    encode (.readSynced cs e) &&& 0xFFFF13FF = 0x00000016 ∧
    (s.atStart → completes (.readSynced cs e) s fun t =>
      entered s t (codecList cs).length ∧ onlyStatusChanged s t ∧
      (∀ q, t.eng.step = some q → q.vals = [])) ∧
    (∀ p c d, s.inBody p → (codecList cs)[p.elem]? = some c → p.vals.length = p.elem → answered s d →
      completes (.readSynced cs e) s fun t =>
        let a := (enumDesc s.cfg e).addr
        let x := readBack s c a d
        let field := x / 2 ^ (enumDesc s.cfg e).shift % 2 ^ (enumDesc s.cfg e).width
        if readOk s d = false then
          recorded s t [.memRead c a none] ∧ t.win.data = s.win.data ∧
          t.endedWith .registerReadError (codecNum c) a
        else
          recorded s t [.memRead c a (some x)] ∧
          (if (codecList cs).length = 1 then
            t.endedWith .ok 0 0 ∧ t.win.data = BitVec.ofNat 32 field
           else
            t.win.data = s.win.data ∧ stillBusy s t ∧
            t.eng.step = some { p with elem := p.elem + 1, req := 0, vals := p.vals ++ [field] })) ∧
    (∀ p x y, cs = .lr → s.inBody p → p.elem = 2 → p.vals = [x, y] → completes (.readSynced cs e) s fun t =>
      recorded s t [] ∧
      (if x = y then t.endedWith .ok 0 0 ∧ t.win.data = BitVec.ofNat 32 x
       else t.endedWith .desyncError 1 (enumDesc s.cfg e).addr ∧ onlyStatusChanged s t))

/-- R194, R185, R142, R143: WRITE_SYNCED refuses a value that is not legal for the control; for each codec it writes the
value into the control's field over the shadow, ends with STATE_UNKNOWN where the shadow is unknown, and at the
first write answered `fail`. Its division into steps is the model's (log 2). -/
def Obligations.WriteSyncedWritesTheField : Prop :=
  ∀ (cs : CodecSet) (e : Control) (s : State), (∀ c, shadowSound s c) →
    encode (.writeSynced cs e) &&& 0xFFFF13FF = 0x00000017 ∧
    let a := (enumDesc s.cfg e).addr
    let x := s.eng.cur.arg0.toNat
    let count := match e with | .anticlip => 2 | .dither => 4 | .filter => 5
    (s.atStart →
      (count ≤ x → completes (.writeSynced cs e) s fun t =>
        t.endedWith .invalidOperand 0 0 ∧ onlyStatusChanged s t) ∧
      (x < count → completes (.writeSynced cs e) s fun t =>
        entered s t (codecList cs).length ∧ onlyStatusChanged s t)) ∧
    (∀ p c, s.inBody p → (codecList cs)[p.elem]? = some c →
      (s.shadow c a = none → completes (.writeSynced cs e) s fun t =>
        t.endedWith .stateUnknown (codecNum c) a ∧ onlyStatusChanged s t) ∧
      (∀ base v d, s.shadow c a = some base →
        isRmwValue s.cfg base ((2 ^ (enumDesc s.cfg e).width - 1) * 2 ^ (enumDesc s.cfg e).shift)
          (x * 2 ^ (enumDesc s.cfg e).shift) v → answered s d →
        completes (.writeSynced cs e) s fun t =>
          recorded s t [.memWrite c a v d.ok] ∧ registerWritten s t c a v d.ok ∧
          (if d.ok then movedOn s t (codecList cs).length
           else t.endedWith .registerWriteError (codecNum c) a)))

/-! ## Frames (R149) -/

/-- R149, rows PREPARE_ALL, ENABLE_ALL, DISABLE_ALL and UNPREPARE_ALL, and R38: an engine step of a group command stores
to no codec register, and changes of the clock flags only `prepared` (or only `enabled`) of the group's clocks; FLAGS
only in the teardown commands. -/
def Obligations.GroupCommandsChangeOnlyTheirFlags : Prop :=
  ∀ (g : Group) (i : Instr) (s t : State),
    i = .prepareAll g ∨ i = .enableAll g ∨ i = .disableAll g ∨ i = .unprepareAll g → exec i s = .next t →
    hostSideKept s t ∧ registersKeptBut s t none ∧ (∀ c, t.codec c = s.codec c) ∧ t.ref = s.ref ∧
    t.now = s.now ∧ t.win.data = s.win.data ∧
    t.clk.gatePrepared = s.clk.gatePrepared ∧ t.clk.gateEnabled = s.clk.gateEnabled ∧
    t.clk.masterClockEnabled = s.clk.masterClockEnabled ∧ t.clk.muxSel = s.clk.muxSel ∧
    t.clk.settlePending = s.clk.settlePending ∧
    (∀ k, k ∉ groupList s.cfg g → t.clk.flags k = s.clk.flags k) ∧
    (i = .prepareAll g ∨ i = .unprepareAll g → ∀ k, t.clk.enabled k = s.clk.enabled k) ∧
    (i = .enableAll g ∨ i = .disableAll g → ∀ k, t.clk.prepared k = s.clk.prepared k) ∧
    (i = .prepareAll g ∨ i = .enableAll g → flagsAndDataKept s t) ∧
    (i = .unprepareAll g → t.win.glitchRisk = s.win.glitchRisk)

/-- R149, rows SELECT_MASTER and RELEASE_MASTER, and R38: an engine step of a master command stores to no codec
register and changes no consumer clock's flags; SELECT_MASTER changes no flag of FLAGS, RELEASE_MASTER neither the mux
selection nor the settle flag. -/
def Obligations.MasterCommandsChangeOnlyTheGateAndMux : Prop :=
  ∀ (i : Instr) (s t : State),
    i = .selectMaster ∨ i = .releaseMaster → exec i s = .next t →
    hostSideKept s t ∧ registersKeptBut s t none ∧ (∀ c, t.codec c = s.codec c) ∧ t.ref = s.ref ∧
    t.win.data = s.win.data ∧ (∀ k, t.clk.flags k = s.clk.flags k) ∧
    (i = .selectMaster → flagsAndDataKept s t) ∧
    (i = .releaseMaster →
      t.clk.muxSel = s.clk.muxSel ∧ t.clk.settlePending = s.clk.settlePending ∧ t.now = s.now)

/-- R149, rows APPLY_STARTUP, SET_FMT_SYSCLK, POWER_UP and POWER_DOWN, and R38: an engine step of these changes no clock
state, no flag, not DATA, nothing of a codec outside the set, and of the codec registers at most the one the step
stores to. -/
def Obligations.CodecCommandsStoreOnlyToTheirRegister : Prop :=
  ∀ (cs : CodecSet) (i : Instr) (s t : State),
    i = .applyStartup cs ∨ i = .setFmtSysclk cs ∨ i = .powerUp cs ∨ i = .powerDown cs → exec i s = .next t →
    hostSideKept s t ∧ flagsAndDataKept s t ∧ t.clk = s.clk ∧ t.now = s.now ∧
    registersKeptBut s t (storeTarget i s) ∧
    (∀ c, currentCodec cs s ≠ some c → t.codec c = s.codec c ∧ t.ref.codec c = s.ref.codec c)

/-- R149, rows SET_VOLUME and WRITE_SYNCED, and R38: an engine step of these changes no clock state, no flag, not DATA,
no codec's power state or sysclk association, and of the codec registers at most the one the step stores to. -/
def Obligations.ControlWritesStoreOnlyToTheirRegister : Prop :=
  ∀ (i : Instr) (s t : State), configOk s.cfg = true →
    ((∃ c ch, i = .setVolume c ch) ∨ ∃ cs d, i = .writeSynced cs d) → exec i s = .next t →
    hostSideKept s t ∧ flagsAndDataKept s t ∧ t.clk = s.clk ∧ t.now = s.now ∧
    (∀ c, powerKept s t c) ∧ registersKeptBut s t (storeTarget i s)

/-- R149, rows GET_VOLUME and READ_SYNCED, R61 and R38: an engine step of a read command stores to nothing and changes,
of all the block's state and the reference codec's, only DATA (with STATUS, the engine's position and the history). -/
def Obligations.ReadCommandsChangeOnlyData : Prop :=
  ∀ (i : Instr) (s t : State),
    ((∃ c ch, i = .getVolume c ch) ∨ ∃ cs d, i = .readSynced cs d) → exec i s = .next t →
    hostSideKept s t ∧ t.clk = s.clk ∧ t.left = s.left ∧ t.right = s.right ∧ t.ref = s.ref ∧ t.now = s.now ∧
    registersKeptBut s t none ∧
    t.win.glitchRisk = s.win.glitchRisk ∧ t.win.teardownFault = s.win.teardownFault

/-! ## Whole-machine rules -/

/-- R33, R81: the shadow map changes only at the entry of a recorded register write, which an `ok` answer sets to the
value written and a `fail` to the unknown value; no read changes it. -/
def Obligations.ShadowFollowsTheRecordedWrites : Prop :=
  ∀ (i : Instr) (s t : State) (c : CodecId) (a : Nat), (∀ c, shadowSound s c) → exec i s = .next t →
    t.shadow c a = s.shadow c a ∨
    ∃ v ok, recorded s t [.memWrite c a v ok] ∧ t.shadow c a = if ok then some v else none

/-- R123, R77, R60, R62, R66: one engine step records at most one request; a register access is to a present register
with a value within REG_DATA_BITS. -/
def Obligations.EachStepIssuesAtMostOneRequestInRange : Prop :=
  ∀ (i : Instr) (s t : State), exec i s = .next t →
    ∃ evs, recorded s t evs ∧
      (evs.filter fun e => match e with
        | .clkReq _ _ _ => true
        | .memRead _ _ _ => true
        | .memWrite _ _ _ _ => true
        | .settleStart _ => false
        | .settleEnd _ => false).length ≤ 1 ∧
      (configOk s.cfg = true → i.wellFormed s.cfg.numCodecs = true → (∀ c, shadowSound s c) →
        ∀ e ∈ evs,
          (∀ c a v ok, e = .memWrite c a v ok →
            present s.cfg c = true ∧ a < 2 ^ s.cfg.regAddrBits ∧ v < 2 ^ s.cfg.regDataBits) ∧
          (∀ c a v, e = .memRead c a v → present s.cfg c = true ∧ a < 2 ^ s.cfg.regAddrBits))

/-- R35, R126: an engine step never moves the position backward: it goes on from the start to the guards or the body,
from the guards to the body, to a later element or a later request of the same one, stays where it is while it holds,
or ends the command; and it ends it by `raise`, which clears BUSY. -/
def Obligations.EnginePositionNeverMovesBack : Prop :=
  ∀ (i : Instr) (s t : State) (p : Position), s.eng.busy = true → s.eng.step = some p → exec i s = .next t →
    (t.eng.step = none ∧ t.eng.busy = false) ∨
    (stillBusy s t ∧ ∃ q, t.eng.step = some q ∧
      (q = p ∨ (p.phase = .start ∧ q.phase ≠ .start) ∨ (p.phase = .guards ∧ q.phase = .body) ∨
        (p.phase = q.phase ∧ (p.elem < q.elem ∨ (p.elem = q.elem ∧ p.req < q.req)))))

/-- R24, R157: in a reachable state an engine step changes the flags of a consumer clock only along the lifecycle: Idle
to Prepared by PREPARE_ALL on an `ok`, Prepared to Enabled by ENABLE_ALL on an `ok`, Enabled to Prepared by DISABLE_ALL
and Prepared to Idle by UNPREPARE_ALL on either answer, each in a group that has the clock. -/
def Obligations.ClocksMoveOnlyAlongTheLifecycle : Prop :=
  ∀ (i : Instr) (s t : State) (k : Consumer) (p0 e0 p1 e1 : Bool), Inv s → s.runs i → exec i s = .next t →
    s.clk.flags k = ⟨p0, e0⟩ → t.clk.flags k = ⟨p1, e1⟩ → (p0, e0) ≠ (p1, e1) →
    ∃ g, k ∈ groupList s.cfg g ∧
      ((i = .prepareAll g ∧ (p0, e0, p1, e1) = (false, false, true, false) ∧
          recorded s t [.clkReq .prepare (.consumer k) true]) ∨
       (i = .enableAll g ∧ (p0, e0, p1, e1) = (true, false, true, true) ∧
          recorded s t [.clkReq .enable (.consumer k) true]) ∨
       (i = .disableAll g ∧ (p0, e0, p1, e1) = (true, true, true, false) ∧
          ∃ ok, recorded s t [.clkReq .disable (.consumer k) ok]) ∨
       (i = .unprepareAll g ∧ (p0, e0, p1, e1) = (true, false, false, false) ∧
          ∃ ok, recorded s t [.clkReq .unprepare (.consumer k) ok]))

/-- R167, R166, R293, R286: the master flag is set only at the last step of SELECT_MASTER, when the settle wait of at
least 20 ms ends, and cleared only at the first step of RELEASE_MASTER. The time stamp in ms, which the lower bound is
said of, is log 13. -/
def Obligations.MasterFlagMovesOnlyAtSettleEndAndRelease : Prop :=
  ∀ (i : Instr) (s t : State), exec i s = .next t →
    (s.clk.masterClockEnabled = false → t.clk.masterClockEnabled = true →
      i = .selectMaster ∧ recorded s t [.settleEnd t.now] ∧ s.now + 20 ≤ t.now ∧ t.endedWith .ok 0 0) ∧
    (s.clk.masterClockEnabled = true → t.clk.masterClockEnabled = false →
      i = .releaseMaster ∧ s.position.phase = .start) ∧
    (i = .releaseMaster → s.position.phase = .start → t.clk.masterClockEnabled = false)

/-- R133, R48 item 6, R286: in a reachable state a codec becomes `Up` only by POWER_UP, while the master clock has
settled, every present consumer clock runs and the codec has a sysclk; with ONE EXCEPTION (log 28): inside a startup
batch, by an entry that writes the format-control register without the power-down bit, where none of these need hold
(R7 holds only the last such entry to that bit). -/
def Obligations.CodecsComeUpLast : Prop :=
  ∀ (i : Instr) (s t : State) (c : CodecId), Inv s → configOk s.cfg = true → s.runs i → exec i s = .next t →
    (s.codec c).pd ≠ .up → (t.codec c).pd = .up →
    (∃ cs, i = .powerUp cs ∧ c ∈ codecList cs ∧ s.clk.masterClockEnabled = true ∧
      (∀ k, clockPresent s.cfg k = true → s.clk.enabled k = true) ∧ (s.codec c).sysclkValid = true) ∨
    (∃ cs v, i = .applyStartup cs ∧ c ∈ codecList cs ∧ (s.cfg.addrFmtctl, v) ∈ s.cfg.startupBatch ∧
      v &&& s.cfg.pdMask = 0)

/-- R147: in a reachable state, whenever an engine step leaves a codec in `Unknown` the codec has no sysclk
association, and a codec leaves `Unknown` only by APPLY_STARTUP or POWER_DOWN with a write answered `ok`. -/
def Obligations.UnknownPowerStateDropsTheSysclk : Prop :=
  ∀ (i : Instr) (s t : State) (c : CodecId), Inv s → configOk s.cfg = true → s.runs i → exec i s = .next t →
    ((t.codec c).pd = .unknown → sysclkCleared t c) ∧
    ((s.codec c).pd = .unknown → (t.codec c).pd ≠ .unknown →
      (∃ cs, (i = .applyStartup cs ∨ i = .powerDown cs) ∧ c ∈ codecList cs) ∧
      ∃ v, recorded s t [.memWrite c s.cfg.addrFmtctl v true])

/-- R199, R32: a codec's sysclk association becomes valid only by a SET_FMT_SYSCLK that names it, on a write answered
`ok`, and its rate is then the operand; while it is invalid, ENABLE_ALL and a POWER_UP of the codec end with
SEQUENCE_ERROR and change nothing else, within a number of engine steps that is the model's (log 2). -/
def Obligations.SysclkComesOnlyFromSetFmtSysclk : Prop :=
  (∀ (i : Instr) (s t : State) (c : CodecId), exec i s = .next t →
    (s.codec c).sysclkValid = false → (t.codec c).sysclkValid = true →
    ∃ cs v, i = .setFmtSysclk cs ∧ c ∈ codecList cs ∧ (t.codec c).sysclk = s.eng.cur.arg0 ∧
      recorded s t [.memWrite c s.cfg.addrFmtctl v true]) ∧
  (∀ (s : State) (c : CodecId) (g : Group), present s.cfg c = true → (s.codec c).sysclkValid = false →
    s.atStart → completesIn (stepBound s.cfg (.enableAll g)) (.enableAll g) s fun t =>
      t.eng.busy = false ∧ t.win.code = .sequenceError ∧ onlyStatusChanged s t) ∧
  (∀ (s : State) (c : CodecId) (cs : CodecSet), c ∈ codecList cs → (s.codec c).sysclkValid = false →
    s.atStart → completesIn (stepBound s.cfg (.powerUp cs)) (.powerUp cs) s fun t =>
      t.eng.busy = false ∧ t.win.code = .sequenceError ∧ onlyStatusChanged s t)

/-- R40: an engine step changes DATA only in GET_VOLUME or READ_SYNCED, and only by ending it with OK. -/
def Obligations.DataIsWrittenOnlyByReadsThatEndOk : Prop :=
  ∀ (i : Instr) (s t : State), exec i s = .next t → t.win.data ≠ s.win.data →
    ((∃ c ch, i = .getVolume c ch) ∨ ∃ cs d, i = .readSynced cs d) ∧ t.endedWith .ok 0 0

/-- R256: in a reachable state only WRITE_SYNCED ends with STATE_UNKNOWN, at a codec whose shadow of the control's
register is unknown; and it ends there without a request. -/
def Obligations.StateUnknownComesOnlyFromWriteSynced : Prop :=
  ∀ (i : Instr) (s t : State), Inv s → configOk s.cfg = true → s.runs i → s.win.code = .ok →
    exec i s = .next t → t.win.code = .stateUnknown →
    ∃ cs d c, i = .writeSynced cs d ∧ c ∈ codecList cs ∧ s.shadow c (enumDesc s.cfg d).addr = none ∧
      t.endedWith .stateUnknown (codecNum c) (enumDesc s.cfg d).addr ∧ recorded s t []

/-- R184: no command writes an attenuation MSB register without the latch bit. -/
def Obligations.NoMsbWriteWithoutTheLatchBit : Prop :=
  ∀ (i : Instr) (s t : State) (c : CodecId) (ch : Channel) (v : Nat) (ok : Bool),
    configOk s.cfg = true → exec i s = .next t → recorded s t [.memWrite c (addrAttMsb s.cfg ch) v ok] →
    v &&& s.cfg.latchMask ≠ 0

/-! ## Commands from their issue to their end -/

/-- R148 read as a bound (the fairness premise made a list of answers): a command whose requests are all answered at
once ends, within the number of engine steps its loops need; and one whose checks pass (R125, R132 to R136, R143),
with every answer `ok`, ends OK, with ONE EXCEPTION: a READ_SYNCED of both codecs that finds their fields differing
ends with DESYNC_ERROR (R193). The bound counts the model's own steps (log 2). -/
def Obligations.EveryCommandEndsWhenAnswered : Prop :=
  ∀ (i : Instr) (s : State), s.atStart →
    (answersCome s (stepBound s.cfg i) →
      ∃ t, runExec i (stepBound s.cfg i) s = .next t ∧ t.eng.busy = false ∧ t.eng.step = none) ∧
    (answersOk s (stepBound s.cfg i) → checksPass i s →
      ∃ t, runExec i (stepBound s.cfg i) s = .next t ∧
        (t.endedWith .ok 0 0 ∨
          ∃ d, i = .readSynced .lr d ∧ t.endedWith .desyncError 1 (enumDesc s.cfg d).addr))

/-- R164: what a failing SELECT_MASTER leaves, from a state with the gate idle, at each of its failures; and that
RELEASE_MASTER, its requests answered, ends with the gate idle from any of these states (it does so from every state).
The numbers of engine steps are the model's (log 2). -/
def Obligations.FailedSelectMasterLeavesTheListedState : Prop :=
  (∀ (s : State), s.atStart → answersCome s 2 →
    ∃ t, runExec .releaseMaster 3 s = .next t ∧ t.endedWith .ok 0 0 ∧
      t.clk.gatePrepared = false ∧ t.clk.gateEnabled = false ∧ t.clk.masterClockEnabled = false) ∧
  ∀ (s : State), s.atStart → s.clk.gatePrepared = false → s.clk.gateEnabled = false →
    s.clk.masterClockEnabled = false →
    (masterSource s.eng.cur.arg0 = none → ∃ t, runExec .selectMaster 5 s = .next t ∧
      t.endedWith .unsupportedMasterRate 0 0 ∧ t.clk = s.clk) ∧
    (∀ src, masterSource s.eng.cur.arg0 = some src →
      (∀ d0 rest, s.env.answers = some d0 :: rest → d0.ok = false →
        ∃ t, runExec .selectMaster 5 s = .next t ∧ t.endedWith .rateSetError 7 0 ∧
          t.clk = { s.clk with muxSel := none }) ∧
      (∀ d0 d1 rest, s.env.answers = some d0 :: some d1 :: rest → d0.ok = true → d1.ok = false →
        ∃ t, runExec .selectMaster 5 s = .next t ∧ t.endedWith .prepareError 6 0 ∧
          t.clk = { s.clk with muxSel := some src }) ∧
      (∀ d0 d1 d2 rest, s.env.answers = some d0 :: some d1 :: some d2 :: rest →
        d0.ok = true → d1.ok = true → d2.ok = false →
        ∃ t, runExec .selectMaster 5 s = .next t ∧ t.endedWith .enableError 6 0 ∧
          t.clk = { s.clk with muxSel := some src, gatePrepared := true }))

/-- R168: from any state, once the requests are answered, DISABLE_ALL both, UNPREPARE_ALL both and RELEASE_MASTER, in
that order, all end OK, and every consumer clock and the gate are then Idle. The numbers of engine steps are the
model's (log 2). -/
def Obligations.UnwindingBringsEveryClockToIdle : Prop :=
  ∀ (s : State) (w1 w2 : Word), s.atStart → absentAtReset s → answersCome s 14 →
    ∃ t u v,
      runExec (.disableAll .both) 7 s = .next t ∧ t.endedWith .ok 0 0 ∧
      runExec (.unprepareAll .both) 13 (t.issue w1) = .next u ∧ u.endedWith .ok 0 0 ∧
      runExec .releaseMaster 3 (u.issue w2) = .next v ∧ v.endedWith .ok 0 0 ∧
      (∀ k, v.clk.flags k = Lifecycle.idle) ∧
      v.clk.gatePrepared = false ∧ v.clk.gateEnabled = false ∧ v.clk.masterClockEnabled = false

/-- R158: if PREPARE_ALL g ends OK, a following PREPARE_ALL g issues no request and ends OK; and the same of ENABLE_ALL
g while every present codec has its sysclk. The numbers of engine steps are the model's (log 2). -/
def Obligations.RepeatedStartCommandsIssueNothing : Prop :=
  ∀ (g : Group) (s t : State) (m : Nat) (w : Word), s.atStart →
    (runExec (.prepareAll g) m s = .next t → t.endedWith .ok 0 0 →
      ∃ u, runExec (.prepareAll g) (1 + (groupList s.cfg g).length) (t.issue w) = .next u ∧
        u.endedWith .ok 0 0 ∧ u.history = t.history ∧ u.clk = t.clk) ∧
    (runExec (.enableAll g) m s = .next t → t.endedWith .ok 0 0 →
      ∃ u, runExec (.enableAll g) (stepBound s.cfg (.enableAll g)) (t.issue w) = .next u ∧
        u.endedWith .ok 0 0 ∧ u.history = t.history ∧ u.clk = t.clk)

/-- R159: on a group whose clocks are all Idle, DISABLE_ALL and UNPREPARE_ALL issue no request and end OK; so does
RELEASE_MASTER with the gate idle. The numbers of engine steps are the model's (log 2). -/
def Obligations.TeardownOfIdleClocksIsANoOp : Prop :=
  ∀ (s : State), s.atStart →
    (∀ g, (∀ k ∈ groupList s.cfg g, s.clk.flags k = Lifecycle.idle) →
      (∃ t, runExec (.disableAll g) (1 + (groupList s.cfg g).length) s = .next t ∧
        t.endedWith .ok 0 0 ∧ t.history = s.history ∧ t.clk = s.clk) ∧
      (∃ t, runExec (.unprepareAll g) (stepBound s.cfg (.unprepareAll g)) s = .next t ∧
        t.endedWith .ok 0 0 ∧ t.history = s.history ∧ t.clk = s.clk)) ∧
    (s.clk.gatePrepared = false → s.clk.gateEnabled = false →
      ∃ t, runExec .releaseMaster 3 s = .next t ∧ t.endedWith .ok 0 0 ∧ t.history = s.history)

/-- R160: from a state where every clock of g is Idle and FMT_READY holds, PREPARE_ALL g then ENABLE_ALL g with all ok
issues exactly one prepare and one enable per clock of g, the prepares in list order before any enable. The numbers of
engine steps are the model's (log 2). -/
def Obligations.PrepareThenEnableStartsEachClockOnce : Prop :=
  ∀ (g : Group) (s : State) (w : Word), s.atStart →
    (∀ k ∈ groupList s.cfg g, s.clk.flags k = Lifecycle.idle) →
    (∀ c, present s.cfg c = true → (s.codec c).sysclkValid = true) →
    answersOk s (2 * (groupList s.cfg g).length) →
    ∃ t u,
      runExec (.prepareAll g) (1 + (groupList s.cfg g).length) s = .next t ∧ t.endedWith .ok 0 0 ∧
      runExec (.enableAll g) (stepBound s.cfg (.enableAll g)) (t.issue w) = .next u ∧ u.endedWith .ok 0 0 ∧
      recorded s u
        ((groupList s.cfg g).map (fun k => Event.clkReq .prepare (.consumer k) true) ++
         (groupList s.cfg g).map (fun k => Event.clkReq .enable (.consumer k) true)) ∧
      ∀ k ∈ groupList s.cfg g, u.clk.flags k = ⟨true, true⟩

/-- R196, R184: the requests of a SET_VOLUME, from its issue to any point of it, are none, the LSB write, or the LSB
write answered `ok` and directly after it the MSB write of the same channel. -/
def Obligations.SetVolumeOrdersLsbBeforeMsb : Prop :=
  ∀ (c : CodecId) (ch : Channel) (s t : State) (m : Nat), s.atStart →
    runExec (.setVolume c ch) m s = .next t →
    recorded s t [] ∨
    (∃ v ok, recorded s t [.memWrite c (addrAttLsb s.cfg ch) v ok]) ∨
    (∃ v v' ok, recorded s t
      [.memWrite c (addrAttLsb s.cfg ch) v true, .memWrite c (addrAttMsb s.cfg ch) v' ok])

/-- R195: under the reference codec model with all answers ok, SET_VOLUME c.ch, v followed by GET_VOLUME c.ch sets DATA
to v and the committed gain of the channel to the raw value of v. The numbers of engine steps are the model's (log 2).
-/
def Obligations.VolumeReadsBackThroughTheCodec : Prop :=
  ∀ (c : CodecId) (ch : Channel) (s : State) (w : Word),
    configOk s.cfg = true → s.atStart → s.ref.plugged = true → (∀ c, refSound s c) → answersOk s 4 →
    channelLegal s.cfg c ch = true → s.eng.cur.arg0.toNat ≤ 1023 →
    ∃ t u,
      runExec (.setVolume c ch) 3 s = .next t ∧ t.endedWith .ok 0 0 ∧
      runExec (.getVolume c ch) 3 (t.issue w) = .next u ∧ u.endedWith .ok 0 0 ∧
      u.win.data = s.eng.cur.arg0 ∧
      (u.ref.codec c).active ch = some (volRaw s.cfg c ch s.eng.cur.arg0.toNat)

/-- R200: under the reference codec model, a SET_VOLUME whose LSB write fails leaves the committed gain alone, and one
whose MSB write fails leaves the old gain or the raw value of v, never a mix. The numbers of engine steps are the
model's (log 2). -/
def Obligations.PartialSetVolumeNeverMixesTheHalves : Prop :=
  ∀ (c : CodecId) (ch : Channel) (s : State),
    configOk s.cfg = true → s.atStart → s.ref.plugged = true →
    channelLegal s.cfg c ch = true → s.eng.cur.arg0.toNat ≤ 1023 →
    (∀ d0 rest, s.env.answers = some d0 :: rest → d0.ok = false →
      ∃ t, runExec (.setVolume c ch) 3 s = .next t ∧
        t.endedWith .registerWriteError (codecNum c) (addrAttLsb s.cfg ch) ∧
        (t.ref.codec c).active ch = (s.ref.codec c).active ch) ∧
    (∀ d0 d1 rest, s.env.answers = some d0 :: some d1 :: rest → d0.ok = true → d1.ok = false →
      ∃ t, runExec (.setVolume c ch) 3 s = .next t ∧
        t.endedWith .registerWriteError (codecNum c) (addrAttMsb s.cfg ch) ∧
        ((t.ref.codec c).active ch = (s.ref.codec c).active ch ∨
         (t.ref.codec c).active ch = some (volRaw s.cfg c ch s.eng.cur.arg0.toNat)))

/-- R197: READ_SYNCED over both codecs, with its reads answered, ends with DESYNC_ERROR exactly when both reads answer
ok and the two fields differ, and ends OK with DATA the common value exactly when both answer ok and they agree. The
number of engine steps is the model's (log 2); that DATA is the common value cut to 32 bits is log 24. -/
def Obligations.ReadSyncedDetectsDesync : Prop :=
  ∀ (e : Control) (s : State) (d0 d1 : Answer) (rest : List (Option Answer)),
    s.atStart → s.env.answers = some d0 :: some d1 :: rest →
    ∃ t, runExec (.readSynced .lr e) 4 s = .next t ∧ t.eng.busy = false ∧
      let a := (enumDesc s.cfg e).addr
      let f0 := enumField s.cfg e (readBack s .left a d0)
      let f1 := enumField s.cfg e (readBack s .right a d1)
      (t.win.code = .desyncError ↔ readOk s d0 = true ∧ readOk s d1 = true ∧ f0 ≠ f1) ∧
      (t.win.code = .ok ↔ readOk s d0 = true ∧ readOk s d1 = true ∧ f0 = f1) ∧
      (t.win.code = .desyncError → t.endedWith .desyncError 1 a ∧ t.win.data = s.win.data) ∧
      (t.win.code = .ok → t.endedWith .ok 0 0 ∧ t.win.data = BitVec.ofNat 32 f0)

/-- R198: if WRITE_SYNCED over every present codec ends OK, the shadows of all present codecs agree on the control's
field (it is the value written), and under the reference codec model so do the codec registers. -/
def Obligations.WriteSyncedLeavesTheCodecsInSynchrony : Prop :=
  ∀ (cs : CodecSet) (e : Control) (s t : State) (m : Nat),
    configOk s.cfg = true → s.atStart → (∀ c, shadowSound s c) → (∀ c, refSound s c) →
    codecList cs = presentCodecs s.cfg →
    runExec (.writeSynced cs e) m s = .next t → t.endedWith .ok 0 0 →
    ∀ c, present s.cfg c = true →
      (∃ v, t.shadow c (enumDesc s.cfg e).addr = some v ∧
        enumField s.cfg e v = s.eng.cur.arg0.toNat) ∧
      (s.ref.plugged = true →
        enumField s.cfg e ((t.ref.codec c).readReg s.cfg (enumDesc s.cfg e).addr) = s.eng.cur.arg0.toNat)

/-! ## The volume encoding and the reference codec -/

/-- R182: for every codec, channel and value v in [0, 1023], decoding the encoded register values gives v. -/
def Obligations.VolumeDecodeUndoesEncode : Prop :=
  ∀ (cfg : Config) (c : CodecId) (ch : Channel) (v : Nat), configOk cfg = true → v ≤ 1023 →
    volDecode cfg c ch (volLsb cfg (volRaw cfg c ch v)) (volMsb cfg (volRaw cfg c ch v)) = v

/-- R70, R71, R72: what the reference codec does with a write it takes: an LSB write is stored and held and commits
nothing; an MSB write with the latch bit is stored and commits the new high field with the held low field; one without
it is stored and commits nothing. The last clause is R72, of which the spec says that "the behaviour with the bit clear
is the spec's own reading". -/
def Obligations.ReferenceCodecLatchesOnTheMsbWrite : Prop :=
  ∀ (cfg : Config) (r : RefCodec) (ch ch' : Channel) (v : Nat), configOk cfg = true →
    Memory.wf (resetDefault cfg) r.reg →
    ((RefCodec.take cfg r (addrAttLsb cfg ch) v).readReg cfg (addrAttLsb cfg ch) = v ∧
      (RefCodec.take cfg r (addrAttLsb cfg ch) v).holdLsb ch = v % 2 ^ cfg.volLsbBits ∧
      (RefCodec.take cfg r (addrAttLsb cfg ch) v).active ch' = r.active ch') ∧
    ((RefCodec.take cfg r (addrAttMsb cfg ch) v).readReg cfg (addrAttMsb cfg ch) = v ∧
      (RefCodec.take cfg r (addrAttMsb cfg ch) v).holdLsb ch' = r.holdLsb ch' ∧
      (v &&& cfg.latchMask ≠ 0 →
        (RefCodec.take cfg r (addrAttMsb cfg ch) v).active ch =
          some (v % 2 ^ (10 - cfg.volLsbBits) * 2 ^ cfg.volLsbBits + r.holdLsb ch)) ∧
      (v &&& cfg.latchMask = 0 ∨ ch' ≠ ch →
        (RefCodec.take cfg r (addrAttMsb cfg ch) v).active ch' = r.active ch'))

/-- R62, R76: with the reference codec plugged in, a write answered `ok` is taken; one answered `fail` is either taken,
with all its effects, or has none, and both can happen; the other codec is untouched. -/
def Obligations.FailedWriteMayOrMayNotLand : Prop :=
  ∀ (cfg : Config) (m : RefModel) (c c' : CodecId) (a v : Nat), m.plugged = true → c' ≠ c →
    (∀ d : Answer, d.ok = true →
      (m.write cfg c a v d).codec c = RefCodec.take cfg (m.codec c) a v) ∧
    (∃ d : Answer, d.ok = false ∧ (m.write cfg c a v d).codec c = RefCodec.take cfg (m.codec c) a v) ∧
    (∃ d : Answer, d.ok = false ∧ (m.write cfg c a v d).codec c = m.codec c) ∧
    (∀ d : Answer,
      (m.write cfg c a v d).codec c = RefCodec.take cfg (m.codec c) a v ∨
      (m.write cfg c a v d).codec c = m.codec c) ∧
    (∀ d : Answer, (m.write cfg c a v d).codec c' = m.codec c')

/-! ## Invariants (R48) -/

/-- R46, R48: the state after reset meets the invariant, for parameters that meet R7. -/
def Obligations.ResetMeetsTheInvariant : Prop :=
  ∀ cfg : Config, configOk cfg = true → Inv (State.resetWith cfg)

/-- R48: every step of the machine, of the engine or of the host, keeps the invariant, from every state that meets it.
-/
def Obligations.EveryStepKeepsTheInvariant : Prop :=
  ∀ s t : State, Inv s → step s = .next t → Inv t
end

