-- ==== Sys2Proof/Laws/Params.lean ====
section
/-! SUPPORT. What an instance's parameters guarantee (R7): the checks of `configOk` read as propositions. -/
namespace Sys2Proof.Machine

variable {cfg : Config}

/-- The six groups of checks. -/
theorem configOk_parts (h : configOk cfg = true) :
    widthsOk cfg = true ∧ masksOk cfg = true ∧ addrsOk cfg = true ∧ enumsOk cfg = true ∧ codesOk cfg = true ∧
      batchOk cfg = true := by
  simpa [configOk, and_assoc] using h

/-- The widths (R6, R7). -/
theorem configOk_widths (h : configOk cfg = true) :
    1 ≤ cfg.volLsbBits ∧ cfg.volLsbBits < 10 ∧ 10 - cfg.volLsbBits + 1 ≤ cfg.regDataBits ∧
      cfg.volLsbBits ≤ cfg.regDataBits := by
  have hw := (configOk_parts h).1
  simp only [widthsOk, Bool.and_eq_true, decide_eq_true_eq] at hw
  exact ⟨hw.1.1.1.2, hw.1.1.2, hw.1.2, hw.2⟩

/-- A single bit is a power of two. -/
theorem isSingleBit_iff (m : Nat) : isSingleBit m = true ↔ ∃ b, m = 2 ^ b := by
  constructor
  · intro h
    simp [isSingleBit] at h
    exact ⟨_, h.2⟩
  · rintro ⟨b, rfl⟩
    simp [isSingleBit, Nat.log2_two_pow]

/-- The latch bit is one bit above the MSB value field (R7). -/
theorem configOk_latch (h : configOk cfg = true) :
    ∃ b, cfg.latchMask = 2 ^ b ∧ 10 - cfg.volLsbBits ≤ b ∧ cfg.latchMask < 2 ^ cfg.regDataBits := by
  have hm := (configOk_parts h).2.1
  simp [masksOk, valueInRange, volBits] at hm
  obtain ⟨b, hb⟩ := (isSingleBit_iff _).mp hm.1.1.1.1.1.1
  refine ⟨b, hb, ?_, hm.1.1.2⟩
  have hl := hm.1.1.1.1.1.2
  rw [hb, Nat.log2_two_pow] at hl
  omega

/-- The power-down bit is one bit, disjoint from the format bits (R7). -/
theorem configOk_power (h : configOk cfg = true) :
    (∃ b, cfg.pdMask = 2 ^ b) ∧ cfg.pdMask &&& cfg.fmtMask = 0 ∧ cfg.pdMask < 2 ^ cfg.regDataBits ∧
      cfg.fmtMask < 2 ^ cfg.regDataBits := by
  have hm := (configOk_parts h).2.1
  simp [masksOk, valueInRange] at hm
  exact ⟨(isSingleBit_iff _).mp hm.1.1.1.1.2, hm.1.1.1.2, hm.1.2, hm.2⟩

/-- The five fixed addresses are pairwise distinct (R7). -/
theorem configOk_distinct (h : configOk cfg = true) : (fixedAddrs cfg).Nodup := by
  have ha := (configOk_parts h).2.2.1
  simp [addrsOk, -List.nodup_cons] at ha
  exact ha.1.1.1.2

/-- Every address the parameters name is a register's (R7). -/
theorem configOk_addrs (h : configOk cfg = true) :
    (∀ a ∈ fixedAddrs cfg, a < 2 ^ cfg.regAddrBits) ∧
    (∀ d, (enumDesc cfg d).addr < 2 ^ cfg.regAddrBits ∧ (enumDesc cfg d).addr ∉ fixedAddrs cfg) ∧
    (∀ e ∈ cfg.startupBatch, e.1 < 2 ^ cfg.regAddrBits) ∧
    (∀ e ∈ cfg.resetDefaults, e.1 < 2 ^ cfg.regAddrBits) := by
  have ha := (configOk_parts h).2.2.1
  simp [addrsOk, addrInRange, -List.nodup_cons] at ha
  obtain ⟨⟨⟨⟨h1, -⟩, h3⟩, h4⟩, h5⟩ := ha
  refine ⟨h1, fun d => ?_, fun e he => h4 e.1 e.2 he, fun e he => h5 e.1 e.2 he⟩
  exact h3 d (by cases d <;> simp [allControls])

/-- Each control's field holds its values and lies in the register (R7). -/
theorem configOk_enum (h : configOk cfg = true) (d : Control) :
    enumCount d ≤ 2 ^ (enumDesc cfg d).width ∧
      (enumDesc cfg d).shift + (enumDesc cfg d).width ≤ cfg.regDataBits := by
  have he := (configOk_parts h).2.2.2.1
  simp [enumsOk] at he
  exact he d (by cases d <;> simp [allControls])

/-- The mux selectors and format codes (R7). -/
theorem configOk_codes (h : configOk cfg = true) :
    cfg.muxSrc44k1 ≠ cfg.muxSrc48k ∧ cfg.fmtCode16 &&& cfg.fmtMask = cfg.fmtCode16 ∧
      cfg.fmtCode32 &&& cfg.fmtMask = cfg.fmtCode32 := by
  have hc := (configOk_parts h).2.2.2.2.1
  simpa [codesOk, withinMask, and_assoc] using hc

/-- The values of the startup batch and of the reset defaults (R7, R186). -/
theorem configOk_batch (h : configOk cfg = true) :
    (∀ e ∈ cfg.startupBatch, e.2 < 2 ^ cfg.regDataBits) ∧
    (∀ e ∈ cfg.resetDefaults, e.2 < 2 ^ cfg.regDataBits) ∧
    (∃ e ∈ cfg.startupBatch, e.1 = cfg.addrFmtctl) ∧ startupFmtctl cfg &&& cfg.pdMask ≠ 0 ∧
    latchOrderOk cfg.latchMask cfg.addrAttLsb0 cfg.addrAttMsb0 false cfg.startupBatch = true ∧
    latchOrderOk cfg.latchMask cfg.addrAttLsb1 cfg.addrAttMsb1 false cfg.startupBatch = true := by
  have hb := (configOk_parts h).2.2.2.2.2
  simp [batchOk, valueInRange] at hb
  obtain ⟨⟨⟨⟨⟨h1, h2⟩, h3⟩, h4⟩, h5⟩, h6⟩ := hb
  exact ⟨fun e he => h1 e.1 e.2 he, fun e he => h2 e.1 e.2 he,
    h3.elim fun v hv => ⟨_, hv, rfl⟩, h4, h5, h6⟩

/-- A reset default is a register value (R7). -/
theorem resetDefault_lt (h : configOk cfg = true) (a : Nat) : resetDefault cfg a < 2 ^ cfg.regDataBits := by
  unfold resetDefault
  split
  · rename_i p hp
    exact (configOk_batch h).2.1 p (List.mem_of_find?_eq_some hp)
  · positivity

/-- STARTUP_FMTCTL is the value of a batch entry (R186). -/
theorem startupFmtctl_mem (h : configOk cfg = true) :
    (cfg.addrFmtctl, startupFmtctl cfg) ∈ cfg.startupBatch := by
  obtain ⟨e, he, ha⟩ := (configOk_batch h).2.2.1
  unfold startupFmtctl
  split
  · rename_i p hp
    have hm := List.mem_of_find?_eq_some hp
    have hq := List.find?_some hp
    simp at hm hq
    rw [← hq]; exact hm
  · rename_i hn
    rw [List.find?_eq_none] at hn
    exact absurd (by simpa using ha) (hn e (by simpa using he))

/-- A batch write of the MSB register has the latch bit and comes after a write of the LSB register (R184). -/
theorem latchOrderOk_split {latch lsb msb : Nat} {batch pre post : List (Nat × Nat)} {v : Nat} {seen : Bool}
    (h : latchOrderOk latch lsb msb seen batch = true) (hb : batch = pre ++ (msb, v) :: post) :
    v &&& latch ≠ 0 ∧ (seen = true ∨ ∃ e ∈ pre, e.1 = lsb) := by
  induction pre generalizing batch seen with
  | nil =>
    subst hb
    simp [latchOrderOk] at h
    exact ⟨h.1.2, .inl h.1.1⟩
  | cons e pre ih =>
    subst hb
    simp only [List.cons_append, latchOrderOk, Bool.and_eq_true] at h
    obtain ⟨hv, hs⟩ := ih h.2 rfl
    refine ⟨hv, ?_⟩
    rcases hs with hs | ⟨e', he', ha'⟩
    · simp at hs
      rcases hs with hs | hs
      · exact .inl hs
      · exact .inr ⟨e, by simp, hs⟩
    · exact .inr ⟨e', by simp [he'], ha'⟩

end Sys2Proof.Machine
end

