-- ==== Sys2Proof/Laws/Memory.lean ====
section
/-! SUPPORT. The laws of the sparse register files: what a read gives after a write, and that a write keeps the
canonical form. -/
namespace Sys2Proof.Machine

variable {α : Type} [DecidableEq α] (dflt : Nat → α)

omit [DecidableEq α] in
/-- An address below every listed one is unlisted. -/
theorem Memory.read_eq_default_of_forall_ne (m : Memory α) (a : Nat) (h : ∀ x ∈ m, x.1 ≠ a) :
    Memory.read dflt m a = dflt a := by
  induction m with
  | nil => rfl
  | cons x rest ih =>
    obtain ⟨k, v⟩ := x
    have hk : k ≠ a := h (k, v) (by simp)
    simp only [Memory.read, hk, if_false]
    exact ih fun y hy => h y (by simp [hy])

/-- A write leaves every other address alone. -/
theorem Memory.read_write_ne (m : Memory α) {a b : Nat} (v : α) (h : b ≠ a) :
    Memory.read dflt (Memory.write dflt m a v) b = Memory.read dflt m b := by
  induction m with
  | nil => by_cases hv : v = dflt a <;> simp [Memory.write, Memory.read, hv, h.symm]
  | cons x rest ih =>
    obtain ⟨k, w⟩ := x
    rcases lt_trichotomy a k with hlt | rfl | hgt
    · by_cases hv : v = dflt a <;> simp [Memory.write, Memory.read, hlt, hv, h.symm]
    · by_cases hv : v = dflt a <;> simp [Memory.write, Memory.read, hv, h.symm]
    · simp [Memory.write, Memory.read, not_lt.mpr hgt.le, hgt.ne', ih]

/-- Every listed address of a written file is the written one or was listed before. -/
theorem Memory.mem_write {m : Memory α} {a : Nat} {v : α} {x : Nat × α}
    (h : x ∈ Memory.write dflt m a v) : (x = (a, v) ∧ v ≠ dflt a) ∨ x ∈ m := by
  induction m with
  | nil =>
    by_cases hv : v = dflt a
    · simp [Memory.write, hv] at h
    · simp [Memory.write, hv] at h; exact .inl ⟨h, hv⟩
  | cons y rest ih =>
    obtain ⟨k, w⟩ := y
    rcases lt_trichotomy a k with hlt | rfl | hgt
    · by_cases hv : v = dflt a
      · simp [Memory.write, hlt, hv] at h; simp [h]
      · simp [Memory.write, hlt, hv] at h
        rcases h with h | h | h
        · exact .inl ⟨h, hv⟩
        · simp [h]
        · simp [h]
    · by_cases hv : v = dflt a
      · simp [Memory.write, hv] at h; simp [h]
      · simp [Memory.write, hv] at h
        rcases h with h | h
        · exact .inl ⟨h, hv⟩
        · simp [h]
    · simp [Memory.write, not_lt.mpr hgt.le, hgt.ne'] at h
      rcases h with h | h
      · simp [h]
      · rcases ih h with h | h
        · exact .inl h
        · simp [h]

/-- A write keeps the canonical form. -/
theorem Memory.write_wf {m : Memory α} (h : Memory.wf dflt m) (a : Nat) (v : α) :
    Memory.wf dflt (Memory.write dflt m a v) := by
  refine ⟨?_, ?_⟩
  · induction m with
    | nil => by_cases hv : v = dflt a <;> simp [Memory.write, hv]
    | cons y rest ih =>
      obtain ⟨k, w⟩ := y
      obtain ⟨hp, hd⟩ := h
      obtain ⟨hlow, hrest⟩ := List.pairwise_cons.mp hp
      rcases lt_trichotomy a k with hlt | rfl | hgt
      · by_cases hv : v = dflt a
        · simpa [Memory.write, hlt, hv] using hp
        · have hall : ∀ x ∈ (k, w) :: rest, a < x.1 := by
            intro x hx
            rcases List.mem_cons.mp hx with rfl | hx
            · exact hlt
            · exact hlt.trans (hlow x hx)
          simp only [Memory.write, hlt, hv, if_true, if_false]
          exact List.pairwise_cons.mpr ⟨hall, hp⟩
      · by_cases hv : v = dflt a
        · simpa [Memory.write, hv] using hrest
        · simp only [Memory.write, lt_irrefl, hv, if_true, if_false]
          exact List.pairwise_cons.mpr ⟨hlow, hrest⟩
      · have ih' := ih ⟨hrest, fun x hx => hd x (by simp [hx])⟩
        have hall : ∀ x ∈ Memory.write dflt rest a v, k < x.1 := by
          intro x hx
          rcases Memory.mem_write dflt hx with ⟨rfl, _⟩ | hx
          · exact hgt
          · exact hlow x hx
        simp only [Memory.write, not_lt.mpr hgt.le, hgt.ne', if_false]
        exact List.pairwise_cons.mpr ⟨hall, ih'⟩
  · intro x hx
    rcases Memory.mem_write dflt hx with ⟨rfl, hv⟩ | hx
    · exact hv
    · exact h.2 x hx

/-- A read after a write to the same address gives the value written. -/
theorem Memory.read_write_same {m : Memory α} (h : Memory.wf dflt m) (a : Nat) (v : α) :
    Memory.read dflt (Memory.write dflt m a v) a = v := by
  induction m with
  | nil => by_cases hv : v = dflt a <;> simp [Memory.write, Memory.read, hv]
  | cons y rest ih =>
    obtain ⟨k, w⟩ := y
    obtain ⟨hp, hd⟩ := h
    obtain ⟨hlow, hrest⟩ := List.pairwise_cons.mp hp
    rcases lt_trichotomy a k with hlt | rfl | hgt
    · by_cases hv : v = dflt a
      · have : ∀ x ∈ (k, w) :: rest, x.1 ≠ a := by
          intro x hx
          rcases List.mem_cons.mp hx with rfl | hx
          · exact hlt.ne'
          · exact (hlt.trans (hlow x hx)).ne'
        simp only [Memory.write, hlt, hv, if_true]
        exact Memory.read_eq_default_of_forall_ne dflt _ a this
      · simp [Memory.write, Memory.read, hlt, hv]
    · by_cases hv : v = dflt a
      · simp only [Memory.write, lt_irrefl, hv, if_true, if_false]
        exact Memory.read_eq_default_of_forall_ne dflt _ a fun x hx => (hlow x hx).ne'
      · simp [Memory.write, Memory.read, hv]
    · simp [Memory.write, Memory.read, not_lt.mpr hgt.le, hgt.ne', hgt.ne,
        ih ⟨hrest, fun x hx => hd x (by simp [hx])⟩]

omit [DecidableEq α] in
/-- The empty file is in canonical form. -/
theorem Memory.wf_nil : Memory.wf dflt ([] : Memory α) :=
  ⟨List.Pairwise.nil, fun _ h => absurd h (List.not_mem_nil)⟩

end Sys2Proof.Machine
end

