-- ==== Sys2Proof/Laws/State.lean ====
section
/-! SUPPORT. The simp set of the state: one lemma per field per primitive update, so that no later proof unfolds
a record update; the derived updates are rewritten to the primitive ones. -/
namespace Sys2Proof.Machine

/-! ## onClk -/

@[simp] theorem State.onClk_cfg (s : State) (f : ClockState → ClockState) : (s.onClk f).cfg = s.cfg := rfl
@[simp] theorem State.onClk_attached (s : State) (f : ClockState → ClockState) : (s.onClk f).attached = s.attached := rfl
@[simp] theorem State.onClk_clk (s : State) (f : ClockState → ClockState) : (s.onClk f).clk = f s.clk := rfl
@[simp] theorem State.onClk_left (s : State) (f : ClockState → ClockState) : (s.onClk f).left = s.left := rfl
@[simp] theorem State.onClk_right (s : State) (f : ClockState → ClockState) : (s.onClk f).right = s.right := rfl
@[simp] theorem State.onClk_eng (s : State) (f : ClockState → ClockState) : (s.onClk f).eng = s.eng := rfl
@[simp] theorem State.onClk_win (s : State) (f : ClockState → ClockState) : (s.onClk f).win = s.win := rfl
@[simp] theorem State.onClk_held (s : State) (f : ClockState → ClockState) : (s.onClk f).held = s.held := rfl
@[simp] theorem State.onClk_history (s : State) (f : ClockState → ClockState) : (s.onClk f).history = s.history := rfl
@[simp] theorem State.onClk_now (s : State) (f : ClockState → ClockState) : (s.onClk f).now = s.now := rfl
@[simp] theorem State.onClk_ref (s : State) (f : ClockState → ClockState) : (s.onClk f).ref = s.ref := rfl
@[simp] theorem State.onClk_env (s : State) (f : ClockState → ClockState) : (s.onClk f).env = s.env := rfl
@[simp] theorem State.onClk_host (s : State) (f : ClockState → ClockState) : (s.onClk f).host = s.host := rfl

/-! ## onCodec -/

@[simp] theorem State.onCodec_cfg (s : State) (c : CodecId) (f : CodecState → CodecState) : (s.onCodec c f).cfg = s.cfg := rfl
@[simp] theorem State.onCodec_attached (s : State) (c : CodecId) (f : CodecState → CodecState) : (s.onCodec c f).attached = s.attached := rfl
@[simp] theorem State.onCodec_clk (s : State) (c : CodecId) (f : CodecState → CodecState) : (s.onCodec c f).clk = s.clk := rfl
@[simp] theorem State.onCodec_left (s : State) (c : CodecId) (f : CodecState → CodecState) : (s.onCodec c f).left = if c = .left then f s.left else s.left := rfl
@[simp] theorem State.onCodec_right (s : State) (c : CodecId) (f : CodecState → CodecState) : (s.onCodec c f).right = if c = .right then f s.right else s.right := rfl
@[simp] theorem State.onCodec_eng (s : State) (c : CodecId) (f : CodecState → CodecState) : (s.onCodec c f).eng = s.eng := rfl
@[simp] theorem State.onCodec_win (s : State) (c : CodecId) (f : CodecState → CodecState) : (s.onCodec c f).win = s.win := rfl
@[simp] theorem State.onCodec_held (s : State) (c : CodecId) (f : CodecState → CodecState) : (s.onCodec c f).held = s.held := rfl
@[simp] theorem State.onCodec_history (s : State) (c : CodecId) (f : CodecState → CodecState) : (s.onCodec c f).history = s.history := rfl
@[simp] theorem State.onCodec_now (s : State) (c : CodecId) (f : CodecState → CodecState) : (s.onCodec c f).now = s.now := rfl
@[simp] theorem State.onCodec_ref (s : State) (c : CodecId) (f : CodecState → CodecState) : (s.onCodec c f).ref = s.ref := rfl
@[simp] theorem State.onCodec_env (s : State) (c : CodecId) (f : CodecState → CodecState) : (s.onCodec c f).env = s.env := rfl
@[simp] theorem State.onCodec_host (s : State) (c : CodecId) (f : CodecState → CodecState) : (s.onCodec c f).host = s.host := rfl

/-! ## onWin -/

@[simp] theorem State.onWin_cfg (s : State) (f : Window → Window) : (s.onWin f).cfg = s.cfg := rfl
@[simp] theorem State.onWin_attached (s : State) (f : Window → Window) : (s.onWin f).attached = s.attached := rfl
@[simp] theorem State.onWin_clk (s : State) (f : Window → Window) : (s.onWin f).clk = s.clk := rfl
@[simp] theorem State.onWin_left (s : State) (f : Window → Window) : (s.onWin f).left = s.left := rfl
@[simp] theorem State.onWin_right (s : State) (f : Window → Window) : (s.onWin f).right = s.right := rfl
@[simp] theorem State.onWin_eng (s : State) (f : Window → Window) : (s.onWin f).eng = s.eng := rfl
@[simp] theorem State.onWin_win (s : State) (f : Window → Window) : (s.onWin f).win = f s.win := rfl
@[simp] theorem State.onWin_held (s : State) (f : Window → Window) : (s.onWin f).held = s.held := rfl
@[simp] theorem State.onWin_history (s : State) (f : Window → Window) : (s.onWin f).history = s.history := rfl
@[simp] theorem State.onWin_now (s : State) (f : Window → Window) : (s.onWin f).now = s.now := rfl
@[simp] theorem State.onWin_ref (s : State) (f : Window → Window) : (s.onWin f).ref = s.ref := rfl
@[simp] theorem State.onWin_env (s : State) (f : Window → Window) : (s.onWin f).env = s.env := rfl
@[simp] theorem State.onWin_host (s : State) (f : Window → Window) : (s.onWin f).host = s.host := rfl

/-! ## record -/

@[simp] theorem State.record_cfg (s : State) (e : Event) : (s.record e).cfg = s.cfg := rfl
@[simp] theorem State.record_attached (s : State) (e : Event) : (s.record e).attached = s.attached := rfl
@[simp] theorem State.record_clk (s : State) (e : Event) : (s.record e).clk = s.clk := rfl
@[simp] theorem State.record_left (s : State) (e : Event) : (s.record e).left = s.left := rfl
@[simp] theorem State.record_right (s : State) (e : Event) : (s.record e).right = s.right := rfl
@[simp] theorem State.record_eng (s : State) (e : Event) : (s.record e).eng = s.eng := rfl
@[simp] theorem State.record_win (s : State) (e : Event) : (s.record e).win = s.win := rfl
@[simp] theorem State.record_held (s : State) (e : Event) : (s.record e).held = s.held := rfl
@[simp] theorem State.record_history (s : State) (e : Event) : (s.record e).history = s.history ++ [e] := rfl
@[simp] theorem State.record_now (s : State) (e : Event) : (s.record e).now = s.now := rfl
@[simp] theorem State.record_ref (s : State) (e : Event) : (s.record e).ref = s.ref := rfl
@[simp] theorem State.record_env (s : State) (e : Event) : (s.record e).env = s.env := rfl
@[simp] theorem State.record_host (s : State) (e : Event) : (s.record e).host = s.host := rfl

/-! ## raise -/

@[simp] theorem State.raise_cfg (s : State) (code : Code) (id addr : Nat) : (s.raise code id addr).cfg = s.cfg := rfl
@[simp] theorem State.raise_attached (s : State) (code : Code) (id addr : Nat) : (s.raise code id addr).attached = s.attached := rfl
@[simp] theorem State.raise_clk (s : State) (code : Code) (id addr : Nat) : (s.raise code id addr).clk = s.clk := rfl
@[simp] theorem State.raise_left (s : State) (code : Code) (id addr : Nat) : (s.raise code id addr).left = s.left := rfl
@[simp] theorem State.raise_right (s : State) (code : Code) (id addr : Nat) : (s.raise code id addr).right = s.right := rfl
@[simp] theorem State.raise_eng (s : State) (code : Code) (id addr : Nat) : (s.raise code id addr).eng = { s.eng with busy := false, step := none } := rfl
@[simp] theorem State.raise_win (s : State) (code : Code) (id addr : Nat) : (s.raise code id addr).win = { s.win with code := code, infoId := BitVec.ofNat 8 id, infoAddr := BitVec.ofNat 8 addr } := rfl
@[simp] theorem State.raise_held (s : State) (code : Code) (id addr : Nat) : (s.raise code id addr).held = s.held := rfl
@[simp] theorem State.raise_history (s : State) (code : Code) (id addr : Nat) : (s.raise code id addr).history = s.history := rfl
@[simp] theorem State.raise_now (s : State) (code : Code) (id addr : Nat) : (s.raise code id addr).now = s.now := rfl
@[simp] theorem State.raise_ref (s : State) (code : Code) (id addr : Nat) : (s.raise code id addr).ref = s.ref := rfl
@[simp] theorem State.raise_env (s : State) (code : Code) (id addr : Nat) : (s.raise code id addr).env = s.env := rfl
@[simp] theorem State.raise_host (s : State) (code : Code) (id addr : Nat) : (s.raise code id addr).host = s.host := rfl

/-! ## goTo -/

@[simp] theorem State.goTo_cfg (s : State) (f : Position → Position) : (s.goTo f).cfg = s.cfg := rfl
@[simp] theorem State.goTo_attached (s : State) (f : Position → Position) : (s.goTo f).attached = s.attached := rfl
@[simp] theorem State.goTo_clk (s : State) (f : Position → Position) : (s.goTo f).clk = s.clk := rfl
@[simp] theorem State.goTo_left (s : State) (f : Position → Position) : (s.goTo f).left = s.left := rfl
@[simp] theorem State.goTo_right (s : State) (f : Position → Position) : (s.goTo f).right = s.right := rfl
@[simp] theorem State.goTo_eng (s : State) (f : Position → Position) : (s.goTo f).eng = { s.eng with step := some (f s.position) } := rfl
@[simp] theorem State.goTo_win (s : State) (f : Position → Position) : (s.goTo f).win = s.win := rfl
@[simp] theorem State.goTo_held (s : State) (f : Position → Position) : (s.goTo f).held = s.held := rfl
@[simp] theorem State.goTo_history (s : State) (f : Position → Position) : (s.goTo f).history = s.history := rfl
@[simp] theorem State.goTo_now (s : State) (f : Position → Position) : (s.goTo f).now = s.now := rfl
@[simp] theorem State.goTo_ref (s : State) (f : Position → Position) : (s.goTo f).ref = s.ref := rfl
@[simp] theorem State.goTo_env (s : State) (f : Position → Position) : (s.goTo f).env = s.env := rfl
@[simp] theorem State.goTo_host (s : State) (f : Position → Position) : (s.goTo f).host = s.host := rfl

/-! ## onHost -/

@[simp] theorem State.onHost_cfg (s : State) (f : HostAgent → HostAgent) : (s.onHost f).cfg = s.cfg := rfl
@[simp] theorem State.onHost_attached (s : State) (f : HostAgent → HostAgent) : (s.onHost f).attached = s.attached := rfl
@[simp] theorem State.onHost_clk (s : State) (f : HostAgent → HostAgent) : (s.onHost f).clk = s.clk := rfl
@[simp] theorem State.onHost_left (s : State) (f : HostAgent → HostAgent) : (s.onHost f).left = s.left := rfl
@[simp] theorem State.onHost_right (s : State) (f : HostAgent → HostAgent) : (s.onHost f).right = s.right := rfl
@[simp] theorem State.onHost_eng (s : State) (f : HostAgent → HostAgent) : (s.onHost f).eng = s.eng := rfl
@[simp] theorem State.onHost_win (s : State) (f : HostAgent → HostAgent) : (s.onHost f).win = s.win := rfl
@[simp] theorem State.onHost_held (s : State) (f : HostAgent → HostAgent) : (s.onHost f).held = s.held := rfl
@[simp] theorem State.onHost_history (s : State) (f : HostAgent → HostAgent) : (s.onHost f).history = s.history := rfl
@[simp] theorem State.onHost_now (s : State) (f : HostAgent → HostAgent) : (s.onHost f).now = s.now := rfl
@[simp] theorem State.onHost_ref (s : State) (f : HostAgent → HostAgent) : (s.onHost f).ref = s.ref := rfl
@[simp] theorem State.onHost_env (s : State) (f : HostAgent → HostAgent) : (s.onHost f).env = s.env := rfl
@[simp] theorem State.onHost_host (s : State) (f : HostAgent → HostAgent) : (s.onHost f).host = f s.host := rfl

/-! ## issue -/

@[simp] theorem State.issue_cfg (s : State) (w : Word) : (s.issue w).cfg = s.cfg := rfl
@[simp] theorem State.issue_attached (s : State) (w : Word) : (s.issue w).attached = s.attached := rfl
@[simp] theorem State.issue_clk (s : State) (w : Word) : (s.issue w).clk = s.clk := rfl
@[simp] theorem State.issue_left (s : State) (w : Word) : (s.issue w).left = s.left := rfl
@[simp] theorem State.issue_right (s : State) (w : Word) : (s.issue w).right = s.right := rfl
@[simp] theorem State.issue_eng (s : State) (w : Word) : (s.issue w).eng = { busy := true, cur := { cmd := w, arg0 := s.win.arg0, arg1 := s.win.arg1 }, step := some .start } := rfl
@[simp] theorem State.issue_win (s : State) (w : Word) : (s.issue w).win = { s.win with cmd := w, code := .ok, infoId := 0, infoAddr := 0 } := rfl
@[simp] theorem State.issue_held (s : State) (w : Word) : (s.issue w).held = s.held := rfl
@[simp] theorem State.issue_history (s : State) (w : Word) : (s.issue w).history = s.history := rfl
@[simp] theorem State.issue_now (s : State) (w : Word) : (s.issue w).now = s.now := rfl
@[simp] theorem State.issue_ref (s : State) (w : Word) : (s.issue w).ref = s.ref := rfl
@[simp] theorem State.issue_env (s : State) (w : Word) : (s.issue w).env = s.env := rfl
@[simp] theorem State.issue_host (s : State) (w : Word) : (s.issue w).host = s.host := rfl

/-! ## Derived updates, in terms of the primitive ones -/

@[simp] theorem State.finish_eq (s : State) : s.finish = s.raise .ok 0 0 := rfl
@[simp] theorem State.refuse_eq (s : State) (id : Nat) (g : Guard) :
    s.refuse id g = s.raise .sequenceError id g.number := rfl
@[simp] theorem State.writeError_eq (s : State) (c : CodecId) (a : Nat) :
    s.writeError c a = s.raise .registerWriteError (codecNum c) a := rfl
@[simp] theorem State.endIllegal_eq (s : State) : s.endIllegal = s.raise .illegalCommand 0 0 := rfl
@[simp] theorem State.flagGlitch_eq (s : State) :
    s.flagGlitch = s.onWin fun w => { w with glitchRisk := true } := rfl
@[simp] theorem State.flagTeardown_eq (s : State) :
    s.flagTeardown = s.onWin fun w => { w with teardownFault := true } := rfl
@[simp] theorem State.setData_eq (s : State) (v : Nat) :
    s.setData v = s.onWin fun w => { w with data := BitVec.ofNat 32 v } := rfl
@[simp] theorem State.nextReq_eq (s : State) : s.nextReq = s.goTo fun p => { p with req := p.req + 1 } := rfl
@[simp] theorem State.hostDone_eq (s : State) (rest : List HostAction) :
    s.hostDone rest = s.onHost fun h => { h with actions := rest } := rfl

/-! ## Position -/

/-- The position is read from `step` alone. -/
theorem State.position_of_step {s : State} {p : Position} (h : s.eng.step = some p) : s.position = p := by
  simp [State.position, h]

@[simp] theorem State.goTo_position (s : State) (f : Position → Position) : (s.goTo f).position = f s.position := rfl
@[simp] theorem State.onClk_position (s : State) (f : ClockState → ClockState) :
    (s.onClk f).position = s.position := rfl
@[simp] theorem State.onCodec_position (s : State) (c : CodecId) (f : CodecState → CodecState) :
    (s.onCodec c f).position = s.position := rfl
@[simp] theorem State.onWin_position (s : State) (f : Window → Window) : (s.onWin f).position = s.position := rfl
@[simp] theorem State.record_position (s : State) (e : Event) : (s.record e).position = s.position := rfl
@[simp] theorem State.raise_position (s : State) (code : Code) (id addr : Nat) :
    (s.raise code id addr).position = Position.start := rfl
@[simp] theorem State.env_position (s : State) (e : Environment) : ({ s with env := e } : State).position = s.position := rfl
@[simp] theorem State.ref_position (s : State) (r : RefModel) : ({ s with ref := r } : State).position = s.position := rfl
@[simp] theorem State.now_position (s : State) (t : Nat) : ({ s with now := t } : State).position = s.position := rfl

/-! ## Clock flags -/

@[simp] theorem ClockState.flags_setFlags (c : ClockState) (k k' : Consumer) (v : Lifecycle) :
    (c.setFlags k v).flags k' = if k' = k then v else c.flags k' := by
  cases k <;> cases k' <;> rfl

@[simp] theorem ClockState.prepared_setPrepared (c : ClockState) (k k' : Consumer) (b : Bool) :
    (c.setPrepared k b).prepared k' = if k' = k then b else c.prepared k' := by
  cases k <;> cases k' <;> rfl
@[simp] theorem ClockState.enabled_setPrepared (c : ClockState) (k k' : Consumer) (b : Bool) :
    (c.setPrepared k b).enabled k' = c.enabled k' := by
  cases k <;> cases k' <;> rfl
@[simp] theorem ClockState.enabled_setEnabled (c : ClockState) (k k' : Consumer) (b : Bool) :
    (c.setEnabled k b).enabled k' = if k' = k then b else c.enabled k' := by
  cases k <;> cases k' <;> rfl
@[simp] theorem ClockState.prepared_setEnabled (c : ClockState) (k k' : Consumer) (b : Bool) :
    (c.setEnabled k b).prepared k' = c.prepared k' := by
  cases k <;> cases k' <;> rfl

@[simp] theorem ClockState.setPrepared_gatePrepared (c : ClockState) (k : Consumer) (b : Bool) :
    (c.setPrepared k b).gatePrepared = c.gatePrepared := by cases k <;> rfl
@[simp] theorem ClockState.setPrepared_gateEnabled (c : ClockState) (k : Consumer) (b : Bool) :
    (c.setPrepared k b).gateEnabled = c.gateEnabled := by cases k <;> rfl
@[simp] theorem ClockState.setPrepared_masterClockEnabled (c : ClockState) (k : Consumer) (b : Bool) :
    (c.setPrepared k b).masterClockEnabled = c.masterClockEnabled := by cases k <;> rfl
@[simp] theorem ClockState.setPrepared_muxSel (c : ClockState) (k : Consumer) (b : Bool) :
    (c.setPrepared k b).muxSel = c.muxSel := by cases k <;> rfl
@[simp] theorem ClockState.setPrepared_settlePending (c : ClockState) (k : Consumer) (b : Bool) :
    (c.setPrepared k b).settlePending = c.settlePending := by cases k <;> rfl
@[simp] theorem ClockState.setEnabled_gatePrepared (c : ClockState) (k : Consumer) (b : Bool) :
    (c.setEnabled k b).gatePrepared = c.gatePrepared := by cases k <;> rfl
@[simp] theorem ClockState.setEnabled_gateEnabled (c : ClockState) (k : Consumer) (b : Bool) :
    (c.setEnabled k b).gateEnabled = c.gateEnabled := by cases k <;> rfl
@[simp] theorem ClockState.setEnabled_masterClockEnabled (c : ClockState) (k : Consumer) (b : Bool) :
    (c.setEnabled k b).masterClockEnabled = c.masterClockEnabled := by cases k <;> rfl
@[simp] theorem ClockState.setEnabled_muxSel (c : ClockState) (k : Consumer) (b : Bool) :
    (c.setEnabled k b).muxSel = c.muxSel := by cases k <;> rfl
@[simp] theorem ClockState.setEnabled_settlePending (c : ClockState) (k : Consumer) (b : Bool) :
    (c.setEnabled k b).settlePending = c.settlePending := by cases k <;> rfl

/-! A change of the gate, master, mux or settle fields leaves every consumer clock alone. -/

@[simp] theorem ClockState.prepared_with_gatePrepared (c : ClockState) (k : Consumer) (x : Bool) :
    ({ c with gatePrepared := x } : ClockState).prepared k = c.prepared k := by cases k <;> rfl
@[simp] theorem ClockState.enabled_with_gatePrepared (c : ClockState) (k : Consumer) (x : Bool) :
    ({ c with gatePrepared := x } : ClockState).enabled k = c.enabled k := by cases k <;> rfl
@[simp] theorem ClockState.prepared_with_gateEnabled (c : ClockState) (k : Consumer) (x : Bool) :
    ({ c with gateEnabled := x } : ClockState).prepared k = c.prepared k := by cases k <;> rfl
@[simp] theorem ClockState.enabled_with_gateEnabled (c : ClockState) (k : Consumer) (x : Bool) :
    ({ c with gateEnabled := x } : ClockState).enabled k = c.enabled k := by cases k <;> rfl
@[simp] theorem ClockState.prepared_with_masterClockEnabled (c : ClockState) (k : Consumer) (x : Bool) :
    ({ c with masterClockEnabled := x } : ClockState).prepared k = c.prepared k := by cases k <;> rfl
@[simp] theorem ClockState.enabled_with_masterClockEnabled (c : ClockState) (k : Consumer) (x : Bool) :
    ({ c with masterClockEnabled := x } : ClockState).enabled k = c.enabled k := by cases k <;> rfl
@[simp] theorem ClockState.prepared_with_muxSel (c : ClockState) (k : Consumer) (x : Option MasterSource) :
    ({ c with muxSel := x } : ClockState).prepared k = c.prepared k := by cases k <;> rfl
@[simp] theorem ClockState.enabled_with_muxSel (c : ClockState) (k : Consumer) (x : Option MasterSource) :
    ({ c with muxSel := x } : ClockState).enabled k = c.enabled k := by cases k <;> rfl
@[simp] theorem ClockState.prepared_with_settlePending (c : ClockState) (k : Consumer) (x : Bool) :
    ({ c with settlePending := x } : ClockState).prepared k = c.prepared k := by cases k <;> rfl
@[simp] theorem ClockState.enabled_with_settlePending (c : ClockState) (k : Consumer) (x : Bool) :
    ({ c with settlePending := x } : ClockState).enabled k = c.enabled k := by cases k <;> rfl

/-! ## Codec state -/

@[simp] theorem State.onCodec_codec (s : State) (c c' : CodecId) (f : CodecState → CodecState) :
    (s.onCodec c f).codec c' = if c' = c then f (s.codec c) else s.codec c' := by
  cases c <;> cases c' <;> rfl
@[simp] theorem State.onClk_codec (s : State) (f : ClockState → ClockState) (c : CodecId) :
    (s.onClk f).codec c = s.codec c := by cases c <;> rfl
@[simp] theorem State.onWin_codec (s : State) (f : Window → Window) (c : CodecId) :
    (s.onWin f).codec c = s.codec c := by cases c <;> rfl
@[simp] theorem State.record_codec (s : State) (e : Event) (c : CodecId) :
    (s.record e).codec c = s.codec c := by cases c <;> rfl
@[simp] theorem State.raise_codec (s : State) (code : Code) (id addr : Nat) (c : CodecId) :
    (s.raise code id addr).codec c = s.codec c := by cases c <;> rfl
@[simp] theorem State.goTo_codec (s : State) (f : Position → Position) (c : CodecId) :
    (s.goTo f).codec c = s.codec c := by cases c <;> rfl
@[simp] theorem State.onHost_codec (s : State) (f : HostAgent → HostAgent) (c : CodecId) :
    (s.onHost f).codec c = s.codec c := by cases c <;> rfl
@[simp] theorem State.issue_codec (s : State) (w : Word) (c : CodecId) :
    (s.issue w).codec c = s.codec c := by cases c <;> rfl
@[simp] theorem State.env_codec (s : State) (e : Environment) (c : CodecId) :
    ({ s with env := e } : State).codec c = s.codec c := by cases c <;> rfl
@[simp] theorem State.ref_codec (s : State) (r : RefModel) (c : CodecId) :
    ({ s with ref := r } : State).codec c = s.codec c := by cases c <;> rfl
@[simp] theorem State.now_codec (s : State) (t : Nat) (c : CodecId) :
    ({ s with now := t } : State).codec c = s.codec c := by cases c <;> rfl
@[simp] theorem State.held_codec (s : State) (h : Option HeldWrite) (c : CodecId) :
    ({ s with held := h } : State).codec c = s.codec c := by cases c <;> rfl

@[simp] theorem CodecState.clearSysclk_pd (x : CodecState) : x.clearSysclk.pd = x.pd := rfl
@[simp] theorem CodecState.clearSysclk_shadow (x : CodecState) : x.clearSysclk.shadow = x.shadow := rfl
@[simp] theorem CodecState.clearSysclk_sysclk (x : CodecState) : x.clearSysclk.sysclk = 0 := rfl
@[simp] theorem CodecState.clearSysclk_sysclkValid (x : CodecState) : x.clearSysclk.sysclkValid = false := rfl
@[simp] theorem CodecState.setSysclk_pd (x : CodecState) (m : Word) : (x.setSysclk m).pd = x.pd := rfl
@[simp] theorem CodecState.setSysclk_shadow (x : CodecState) (m : Word) : (x.setSysclk m).shadow = x.shadow := rfl
@[simp] theorem CodecState.setSysclk_sysclk (x : CodecState) (m : Word) : (x.setSysclk m).sysclk = m := rfl
@[simp] theorem CodecState.setSysclk_sysclkValid (x : CodecState) (m : Word) : (x.setSysclk m).sysclkValid = true := rfl

end Sys2Proof.Machine
end

