-- ==== Sys2Proof/Laws/Ops.lean ====
section
/-! SUPPORT. One elimination lemma per shared operation: to show a property of what the operation yields, show
it for each thing the operation can do. Later proofs apply these instead of unfolding the operation. -/
namespace Sys2Proof.Machine

variable {P : State → Prop} {s : State}

/-- What `takeAnswer` does: only the agents' data change. -/
theorem State.takeAnswer_snd (s : State) : ∃ e, s.takeAnswer.2 = { s with env := e } := by
  unfold State.takeAnswer
  split
  · exact ⟨_, rfl⟩
  · exact ⟨_, rfl⟩

/-- The engine holds, or goes on with an answer. -/
theorem State.awaitAnswer_elim {k : Answer → State → State}
    (hold : ∀ e, P { s with env := e }) (go : ∀ d e, P (k d { s with env := e })) : P (s.awaitAnswer k) := by
  obtain ⟨e, he⟩ := s.takeAnswer_snd
  unfold State.awaitAnswer
  split
  · rename_i s' h; rw [h] at he; subst he; exact hold e
  · rename_i d s' h; rw [h] at he; subst he; exact go d e

/-- With an answer at hand the engine goes on with it. -/
theorem State.awaitAnswer_some {k : Answer → State → State} {d : Answer} {rest : List (Option Answer)}
    (h : s.env.answers = some d :: rest) :
    s.awaitAnswer k = k d { s with env := { s.env with answers := rest } } := by
  simp [State.awaitAnswer, State.takeAnswer, h]

/-- Where the agents give no answer yet, the engine holds. -/
theorem State.awaitAnswer_none {k : Answer → State → State} {rest : List (Option Answer)}
    (h : s.env.answers = none :: rest) :
    s.awaitAnswer k = { s with env := { s.env with answers := rest } } := by
  simp [State.awaitAnswer, State.takeAnswer, h]

/-- A clock request. -/
theorem State.clkReq_elim {op : ClkOp} {k : Clock} {cont : Bool → State → State}
    (hold : ∀ e, P { s with env := e })
    (go : ∀ ok e, P (cont ok (({ s with env := e } : State).record (.clkReq op k ok)))) :
    P (s.clkReq op k cont) :=
  State.awaitAnswer_elim hold fun d e => go d.ok e

/-- A start request (R141). -/
theorem State.startReq_elim {op : ClkOp} {k : Clock} {code : Code} {onOk : State → State}
    (hold : ∀ e, P { s with env := e })
    (ok : ∀ e, P (onOk (({ s with env := e } : State).record (.clkReq op k true))))
    (fail : ∀ e, P ((({ s with env := e } : State).record (.clkReq op k false)).raise code k.id 0)) :
    P (s.startReq op k code onOk) :=
  State.clkReq_elim hold fun b e => by cases b <;> simp [ok e, fail e]

/-- A teardown request (R141). -/
theorem State.teardownReq_elim {op : ClkOp} {k : Clock} {done : State → State}
    (hold : ∀ e, P { s with env := e })
    (ok : ∀ e, P (done (({ s with env := e } : State).record (.clkReq op k true))))
    (fail : ∀ e, P (done (({ s with env := e } : State).record (.clkReq op k false)).flagTeardown)) :
    P (s.teardownReq op k done) :=
  State.clkReq_elim hold fun b e => by
    cases b
    · exact fail e
    · exact ok e

/-- The state a register write leaves on an answer (R62, R142). -/
def State.afterWriteReg (s : State) (c : CodecId) (a v : Nat) (d : Answer) : State :=
  ({ s with ref := s.ref.write s.cfg c a v d }.record (.memWrite c a v d.ok)).onCodec c
    (CodecState.afterWrite s.cfg a v d.ok)

/-- A register write (R142). -/
theorem State.writeReg_elim {c : CodecId} {a v : Nat} {cont : Bool → State → State}
    (hold : ∀ e, P { s with env := e })
    (go : ∀ d e, P (cont d.ok (({ s with env := e } : State).afterWriteReg c a v d))) :
    P (s.writeReg c a v cont) :=
  State.awaitAnswer_elim hold fun d e => go d e

/-- A register write with its answer at hand. -/
theorem State.writeReg_some {c : CodecId} {a v : Nat} {cont : Bool → State → State} {d : Answer}
    {rest : List (Option Answer)} (h : s.env.answers = some d :: rest) :
    s.writeReg c a v cont =
      cont d.ok (({ s with env := { s.env with answers := rest } } : State).afterWriteReg c a v d) := by
  simp [State.writeReg, State.memWrite, State.awaitAnswer_some h, State.afterWriteReg]

/-- A read-modify-write (R143). -/
theorem State.rmw_elim {c : CodecId} {a clear set : Nat} {cont : Bool → State → State}
    (unknown : s.shadow c a = none → P (s.raise .stateUnknown (codecNum c) a))
    (hold : ∀ base, s.shadow c a = some base → ∀ e, P { s with env := e })
    (go : ∀ base, s.shadow c a = some base → ∀ d e,
      P (cont d.ok (({ s with env := e } : State).afterWriteReg c a (rmwValue s.cfg base clear set) d))) :
    P (s.rmw c a clear set cont) := by
  unfold State.rmw
  split
  · rename_i h; exact unknown h
  · rename_i base h; exact State.writeReg_elim (hold base h) (go base h)

/-- A register read (R144). -/
theorem State.readReg_elim {c : CodecId} {a : Nat} {cont : Nat → State → State}
    (hold : ∀ e, P { s with env := e })
    (ok : ∀ d e, s.ref.readOk d = true → P (cont (s.ref.readValue s.cfg c a d)
      (({ s with env := e } : State).record (.memRead c a (some (s.ref.readValue s.cfg c a d))))))
    (fail : s.ref.plugged = false → ∀ e,
      P ((({ s with env := e } : State).record (.memRead c a none)).raise .registerReadError (codecNum c) a)) :
    P (s.readReg c a cont) :=
  State.awaitAnswer_elim hold fun d e => by
    by_cases h : s.ref.readOk d = true
    · simpa [h] using ok d e h
    · have hp : s.ref.plugged = false := by simp [RefModel.readOk] at h; exact h.1
      simpa [h] using fail hp e

/-- Entering the body of a command. -/
theorem State.enterBody_elim {n : Nat} (empty : n = 0 → P (s.raise .ok 0 0))
    (enter : n ≠ 0 → P (s.goTo fun p => { p with phase := .body, elem := 0, req := 0 })) : P (s.enterBody n) := by
  unfold State.enterBody
  split
  · rename_i h; exact empty h
  · rename_i h; exact enter h

/-- Going on to the next element. -/
theorem State.nextElem_elim {n : Nat} {last : State → State}
    (more : s.position.elem + 1 < n → P (s.goTo fun p => { p with elem := p.elem + 1, req := 0 }))
    (done : ¬ s.position.elem + 1 < n → P (last s)) : P (s.nextElem n last) := by
  unfold State.nextElem
  split
  · rename_i h; exact more h
  · rename_i h; exact done h

/-- The current element. -/
theorem State.atElem_elim {α : Type} {l : List α} {f : α → State}
    (elem : ∀ x, l[s.position.elem]? = some x → P (f x))
    (past : l[s.position.elem]? = none → P (s.raise .ok 0 0)) : P (s.atElem l f) := by
  unfold State.atElem
  split
  · rename_i x h; exact elem x h
  · rename_i h; exact past h

/-- The end of POWER_DOWN (R190). -/
theorem State.endPowerDown_elim
    (error : ∀ c, s.position.first = some c → P (s.raise .registerWriteError (codecNum c) s.cfg.addrFmtctl))
    (ok : s.position.first = none → P (s.raise .ok 0 0)) : P s.endPowerDown := by
  unfold State.endPowerDown
  split
  · rename_i c h; exact error c h
  · rename_i h; exact ok h

/-- One comparison of READ_SYNCED (R193). -/
theorem State.compareSynced_elim {l : List CodecId} {a : Nat}
    (desync : ∀ c v, (l.zip s.position.vals)[s.position.elem - l.length + 1]? = some (c, v) →
      v ≠ s.position.vals.headD 0 → P (s.raise .desyncError (codecNum c) a))
    (same : ∀ c v, (l.zip s.position.vals)[s.position.elem - l.length + 1]? = some (c, v) →
      v = s.position.vals.headD 0 → P (s.nextElem (2 * l.length - 1) State.endReadSynced))
    (past : (l.zip s.position.vals)[s.position.elem - l.length + 1]? = none → P (s.raise .ok 0 0)) :
    P (s.compareSynced l a) := by
  unfold State.compareSynced
  split
  · rename_i h; exact past h
  · rename_i c v h
    split
    · rename_i hv; exact desync c v h hv
    · rename_i hv; exact same c v h (Decidable.of_not_not hv)

/-- Entering the guard loops of a command. -/
theorem State.enterGuards_elim {gs : List GuardCheck} {n : Nat} (none : gs = [] → P (s.enterBody n))
    (enter : gs ≠ [] → P (s.goTo fun p => { p with phase := .guards, elem := 0, req := 0 })) :
    P (s.enterGuards gs n) := by
  unfold State.enterGuards
  split
  · rename_i h; exact none (by simpa using h)
  · rename_i h; exact enter (by simpa using h)

/-- One iteration of the guard loops. -/
theorem State.guardStep_elim {gs : List GuardCheck} {n : Nat}
    (refuse : ∀ g, gs[s.position.elem]? = some g → g.fails = true → P (s.refuse g.id g.guard))
    (more : ∀ g, gs[s.position.elem]? = some g → g.fails = false → s.position.elem + 1 < gs.length →
      P (s.goTo fun p => { p with elem := p.elem + 1, req := 0 }))
    (last : ∀ g, gs[s.position.elem]? = some g → g.fails = false → ¬ s.position.elem + 1 < gs.length →
      P (s.enterBody n))
    (past : gs[s.position.elem]? = none → P (s.raise .ok 0 0)) : P (s.guardStep gs n) :=
  State.atElem_elim (fun g h => by
    split
    · rename_i hf; exact refuse g h hf
    · rename_i hf
      have hf : g.fails = false := by simpa using hf
      exact State.nextElem_elim (more g h hf) (last g h hf)) past

/-- A meaning made of checks and a body always answers a next state. -/
theorem State.byPhase_eq (s : State) (checks body : State → State) :
    s.byPhase checks body =
      .next (match s.position.phase with
        | .start => checks s
        | .guards => s.finish
        | .body => body s) := rfl

/-- A meaning with guard loops always answers a next state. -/
theorem State.byGuards_eq (s : State) (first : Option State) (gs : List GuardCheck) (n : Nat) (body : State → State) :
    s.byGuards first gs n body =
      .next (match s.position.phase with
        | .start => first.getD (s.enterGuards gs n)
        | .guards => s.guardStep gs n
        | .body => body s) := rfl

/-- What a meaning made of checks and a body does. -/
theorem State.byPhase_elim {checks body : State → State} {t : State} (h : s.byPhase checks body = .next t)
    (start : s.position.phase = .start → P (checks s)) (inBody : s.position.phase = .body → P (body s))
    (past : s.position.phase = .guards → P (s.raise .ok 0 0)) : P t := by
  rw [State.byPhase_eq, Host.Outcome.next.injEq] at h
  subst h
  split
  · rename_i hp; exact start hp
  · rename_i hp; exact past hp
  · rename_i hp; exact inBody hp

/-- What a meaning with guard loops does. -/
theorem State.byGuards_elim {first : Option State} {gs : List GuardCheck} {n : Nat} {body : State → State} {t : State}
    (h : s.byGuards first gs n body = .next t)
    (refused : ∀ x, s.position.phase = .start → first = some x → P x)
    (start : s.position.phase = .start → first = none → P (s.enterGuards gs n))
    (inGuards : s.position.phase = .guards → P (s.guardStep gs n))
    (inBody : s.position.phase = .body → P (body s)) : P t := by
  rw [State.byGuards_eq, Host.Outcome.next.injEq] at h
  subst h
  split
  · rename_i hp
    cases first with
    | none => exact start hp rfl
    | some x => exact refused x hp rfl
  · rename_i hp; exact inGuards hp
  · rename_i hp; exact inBody hp

/-- Every command's meaning answers a next state: the block has no traps (R250). -/
theorem exec_isNext (i : Instr) (s : State) : ∃ t, exec i s = .next t := by
  cases i <;> exact ⟨_, rfl⟩

/-! ## The state after a register write -/

@[simp] theorem State.afterWriteReg_cfg (s : State) (c : CodecId) (a v : Nat) (d : Answer) :
    (s.afterWriteReg c a v d).cfg = s.cfg := rfl
@[simp] theorem State.afterWriteReg_attached (s : State) (c : CodecId) (a v : Nat) (d : Answer) :
    (s.afterWriteReg c a v d).attached = s.attached := rfl
@[simp] theorem State.afterWriteReg_clk (s : State) (c : CodecId) (a v : Nat) (d : Answer) :
    (s.afterWriteReg c a v d).clk = s.clk := rfl
@[simp] theorem State.afterWriteReg_eng (s : State) (c : CodecId) (a v : Nat) (d : Answer) :
    (s.afterWriteReg c a v d).eng = s.eng := rfl
@[simp] theorem State.afterWriteReg_win (s : State) (c : CodecId) (a v : Nat) (d : Answer) :
    (s.afterWriteReg c a v d).win = s.win := rfl
@[simp] theorem State.afterWriteReg_held (s : State) (c : CodecId) (a v : Nat) (d : Answer) :
    (s.afterWriteReg c a v d).held = s.held := rfl
@[simp] theorem State.afterWriteReg_now (s : State) (c : CodecId) (a v : Nat) (d : Answer) :
    (s.afterWriteReg c a v d).now = s.now := rfl
@[simp] theorem State.afterWriteReg_env (s : State) (c : CodecId) (a v : Nat) (d : Answer) :
    (s.afterWriteReg c a v d).env = s.env := rfl
@[simp] theorem State.afterWriteReg_host (s : State) (c : CodecId) (a v : Nat) (d : Answer) :
    (s.afterWriteReg c a v d).host = s.host := rfl
@[simp] theorem State.afterWriteReg_history (s : State) (c : CodecId) (a v : Nat) (d : Answer) :
    (s.afterWriteReg c a v d).history = s.history ++ [.memWrite c a v d.ok] := rfl
@[simp] theorem State.afterWriteReg_ref (s : State) (c : CodecId) (a v : Nat) (d : Answer) :
    (s.afterWriteReg c a v d).ref = s.ref.write s.cfg c a v d := rfl
@[simp] theorem State.afterWriteReg_position (s : State) (c : CodecId) (a v : Nat) (d : Answer) :
    (s.afterWriteReg c a v d).position = s.position := rfl
@[simp] theorem State.afterWriteReg_codec (s : State) (c c' : CodecId) (a v : Nat) (d : Answer) :
    (s.afterWriteReg c a v d).codec c' =
      if c' = c then CodecState.afterWrite s.cfg a v d.ok (s.codec c) else s.codec c' := by
  cases c <;> cases c' <;> rfl

/-! ## Codec state after a write (R142) -/

/-- A write of another register leaves the power state and the sysclk association alone. -/
theorem CodecState.afterWrite_of_ne {cfg : Config} {a : Nat} (h : a ≠ cfg.addrFmtctl) (v : Nat) (ok : Bool)
    (x : CodecState) :
    (CodecState.afterWrite cfg a v ok x).pd = x.pd ∧
    (CodecState.afterWrite cfg a v ok x).sysclk = x.sysclk ∧
    (CodecState.afterWrite cfg a v ok x).sysclkValid = x.sysclkValid := by
  cases ok <;> simp [CodecState.afterWrite, h]

/-- The shadow after a write: the value written, or unknown after a failure. -/
theorem CodecState.afterWrite_shadow (cfg : Config) (a v : Nat) (ok : Bool) (x : CodecState) :
    (CodecState.afterWrite cfg a v ok x).shadow =
      Memory.write (shadowDefault cfg) x.shadow a (if ok then some v else none) := by
  cases ok <;> simp [CodecState.afterWrite]

end Sys2Proof.Machine
end

