-- ==== Sys2Proof/Laws/Steps.lean ====
section
/-! SUPPORT. One equation per shared operation for the step in which the answer is at hand, and what entering a body,
going on and ending leave of a state, in the words of Safety.lean. -/
namespace Sys2Proof.Machine

variable {s : State}

/-! ## Commands as one engine step -/

/-- A meaning made of checks and a body, at its start. -/
theorem completes_start {checks body : State → State} {P : State → Prop} (h : s.atStart) :
    (∃ t, s.byPhase checks body = .next t ∧ P t) ↔ P (checks s) := by
  have hp : s.position = Position.start := State.position_of_step h.2
  simp [State.byPhase_eq, hp, Position.start]

/-- A meaning made of checks and a body, in its body. -/
theorem completes_body {checks body : State → State} {P : State → Prop} {p : Position} (h : s.inBody p) :
    (∃ t, s.byPhase checks body = .next t ∧ P t) ↔ P (body s) := by
  have hp : s.position = p := State.position_of_step h.2.1
  simp [State.byPhase_eq, hp, h.2.2]

/-- A meaning with guard loops, at its start. -/
theorem completes_startGuards {first : Option State} {gs : List GuardCheck} {n : Nat} {body : State → State}
    {P : State → Prop} (h : s.atStart) :
    (∃ t, s.byGuards first gs n body = .next t ∧ P t) ↔ P (first.getD (s.enterGuards gs n)) := by
  have hp : s.position = Position.start := State.position_of_step h.2
  simp [State.byGuards_eq, hp, Position.start]

/-- A meaning with guard loops, in its body. -/
theorem completes_bodyGuards {first : Option State} {gs : List GuardCheck} {n : Nat} {body : State → State}
    {P : State → Prop} {p : Position} (h : s.inBody p) :
    (∃ t, s.byGuards first gs n body = .next t ∧ P t) ↔ P (body s) := by
  have hp : s.position = p := State.position_of_step h.2.1
  simp [State.byGuards_eq, hp, h.2.2]

/-- A command with guard loops in its body runs its body. -/
theorem State.byGuards_body {p : Position} (first : Option State) (gs : List GuardCheck) (n : Nat)
    (body : State → State) (h : s.inBody p) : s.byGuards first gs n body = .next (body s) := by
  obtain ⟨-, hs, hp⟩ := h
  rw [State.byGuards_eq, State.position_of_step hs, hp]

/-- A command with guard loops at its start makes its first check. -/
theorem State.byGuards_start (first : Option State) (gs : List GuardCheck) (n : Nat) (body : State → State)
    (h : s.atStart) : s.byGuards first gs n body = .next (first.getD (s.enterGuards gs n)) := by
  rw [State.byGuards_eq, State.position_of_step h.2]; rfl

/-- A command in its body runs its body. -/
theorem State.byPhase_body {p : Position} (checks body : State → State) (h : s.inBody p) :
    s.byPhase checks body = .next (body s) := by
  obtain ⟨-, hs, hp⟩ := h
  rw [State.byPhase_eq, State.position_of_step hs, hp]

/-- A command at its start runs its checks. -/
theorem State.byPhase_start (checks body : State → State) (h : s.atStart) :
    s.byPhase checks body = .next (checks s) := by
  rw [State.byPhase_eq, State.position_of_step h.2]; rfl

/-- The position of a state in a body. -/
theorem State.inBody.position {p : Position} (h : s.inBody p) : s.position = p := State.position_of_step h.2.1

/-- The position of a state at its start. -/
theorem State.atStart.position (h : s.atStart) : s.position = Position.start := State.position_of_step h.2

/-- The current element. -/
theorem State.atElem_some {α : Type} {l : List α} {f : α → State} {x : α}
    (h : l[s.position.elem]? = some x) : s.atElem l f = f x := by
  simp [State.atElem, h]

/-! ## Answers at hand -/

/-- A clock request with its answer. -/
theorem State.clkReq_some {op : ClkOp} {k : Clock} {cont : Bool → State → State} {d : Answer}
    {rest : List (Option Answer)} (h : s.env.answers = some d :: rest) :
    s.clkReq op k cont =
      cont d.ok (({ s with env := { s.env with answers := rest } } : State).record (.clkReq op k d.ok)) := by
  simp [State.clkReq, State.awaitAnswer_some h]

/-- A start request with its answer (R141). -/
theorem State.startReq_some {op : ClkOp} {k : Clock} {code : Code} {onOk : State → State} {d : Answer}
    {rest : List (Option Answer)} (h : s.env.answers = some d :: rest) :
    s.startReq op k code onOk =
      if d.ok then onOk (({ s with env := { s.env with answers := rest } } : State).record (.clkReq op k d.ok))
      else (({ s with env := { s.env with answers := rest } } : State).record (.clkReq op k d.ok)).raise
        code k.id 0 := by
  rw [State.startReq, State.clkReq_some h]

/-- A teardown request with its answer (R141). -/
theorem State.teardownReq_some {op : ClkOp} {k : Clock} {done : State → State} {d : Answer}
    {rest : List (Option Answer)} (h : s.env.answers = some d :: rest) :
    s.teardownReq op k done =
      done (if d.ok then ({ s with env := { s.env with answers := rest } } : State).record (.clkReq op k d.ok)
        else (({ s with env := { s.env with answers := rest } } : State).record (.clkReq op k d.ok)).flagTeardown) := by
  rw [State.teardownReq, State.clkReq_some h]

/-- A read-modify-write of a known register with its answer (R143). -/
theorem State.rmw_some {c : CodecId} {a clear set base : Nat} {cont : Bool → State → State} {d : Answer}
    {rest : List (Option Answer)} (hb : s.shadow c a = some base) (h : s.env.answers = some d :: rest) :
    s.rmw c a clear set cont =
      cont d.ok (({ s with env := { s.env with answers := rest } } : State).afterWriteReg c a
        (rmwValue s.cfg base clear set) d) := by
  rw [State.rmw, hb]; exact State.writeReg_some h

/-- A read-modify-write of an unknown register (R143). -/
theorem State.rmw_unknown {c : CodecId} {a clear set : Nat} {cont : Bool → State → State}
    (hb : s.shadow c a = none) : s.rmw c a clear set cont = s.raise .stateUnknown (codecNum c) a := by
  rw [State.rmw, hb]

/-- A register read with its answer (R144). -/
theorem State.readReg_some {c : CodecId} {a : Nat} {cont : Nat → State → State} {d : Answer}
    {rest : List (Option Answer)} (h : s.env.answers = some d :: rest) :
    s.readReg c a cont =
      if readOk s d then
        cont (readBack s c a d)
          (({ s with env := { s.env with answers := rest } } : State).record (.memRead c a (some (readBack s c a d))))
      else (({ s with env := { s.env with answers := rest } } : State).record (.memRead c a none)).raise
        .registerReadError (codecNum c) a := by
  rw [State.readReg, State.awaitAnswer_some h]; rfl

/-! ## Ends and moves -/

/-- What `raise` leaves (R126). -/
theorem State.raise_endedWith (s : State) (code : Code) (id addr : Nat) :
    (s.raise code id addr).endedWith code id addr := ⟨rfl, rfl, rfl, rfl, rfl⟩

/-- A refusal changes nothing but STATUS (R255). -/
theorem State.raise_onlyStatusChanged (s : State) (code : Code) (id addr : Nat) :
    onlyStatusChanged s (s.raise code id addr) := rfl

/-- A move of the position changes nothing but the position. -/
theorem State.goTo_onlyStatusChanged (s : State) (f : Position → Position) : onlyStatusChanged s (s.goTo f) := rfl

/-- Entering a body of n elements from a state at its start. -/
theorem State.enterBody_entered (s : State) (n : Nat) : entered s (s.enterBody n) n := by
  unfold entered State.enterBody
  split
  · exact State.raise_endedWith _ _ _ _
  · exact ⟨⟨rfl, rfl, rfl, rfl⟩, _, rfl, rfl, rfl, rfl⟩

/-- Entering a body changes nothing but STATUS and the position. -/
theorem State.enterBody_onlyStatusChanged (s : State) (n : Nat) : onlyStatusChanged s (s.enterBody n) := by
  unfold State.enterBody; split <;> rfl

/-- Entering the guard loops changes nothing but STATUS and the position. -/
theorem State.enterGuards_onlyStatusChanged (s : State) (gs : List GuardCheck) (n : Nat) :
    onlyStatusChanged s (s.enterGuards gs n) :=
  State.enterGuards_elim (fun _ => State.enterBody_onlyStatusChanged s n) fun _ => rfl

/-- An iteration of the guard loops changes nothing but STATUS and the position. -/
theorem State.guardStep_onlyStatusChanged (s : State) (gs : List GuardCheck) (n : Nat) :
    onlyStatusChanged s (s.guardStep gs n) :=
  State.guardStep_elim (fun _ _ _ => rfl) (fun _ _ _ _ => rfl) (fun _ _ _ _ => State.enterBody_onlyStatusChanged s n)
    fun _ => rfl

/-- Two changes of STATUS and the position only are one. -/
theorem onlyStatusChanged.trans {s t u : State} (h : onlyStatusChanged s t) (h' : onlyStatusChanged t u) :
    onlyStatusChanged s u := by
  unfold onlyStatusChanged at h h'
  rw [← h'] at h
  exact h

/-- What a change of STATUS and the position only leaves alone. -/
theorem onlyStatusChanged.kept {s t : State} (h : onlyStatusChanged s t) :
    t.cfg = s.cfg ∧ t.attached = s.attached ∧ t.clk = s.clk ∧ (∀ c, t.codec c = s.codec c) ∧ t.ref = s.ref ∧
    t.history = s.history ∧ t.now = s.now ∧ t.env = s.env ∧ t.host = s.host ∧ t.held = s.held ∧
    t.eng.cur = s.eng.cur ∧ t.win.cmd = s.win.cmd ∧ t.win.arg0 = s.win.arg0 ∧ t.win.arg1 = s.win.arg1 ∧
    t.win.data = s.win.data ∧ t.win.glitchRisk = s.win.glitchRisk ∧ t.win.teardownFault = s.win.teardownFault := by
  unfold onlyStatusChanged at h
  rw [← h]
  exact ⟨rfl, rfl, rfl, fun c => by cases c <;> rfl, rfl, rfl, rfl, rfl, rfl, rfl, rfl, rfl, rfl, rfl, rfl, rfl, rfl⟩

/-- Going on with n elements, from a state x at the same position and with the same STATUS as s. -/
theorem State.nextElem_movedOn {s x : State} {n : Nat} (hb : stillBusy s x) (hp : x.position = s.position) :
    movedOn s (x.nextElem n State.finish) n := by
  unfold movedOn State.nextElem
  rw [hp]
  split
  · exact ⟨hb, by simp [State.goTo, hp]⟩
  · exact State.raise_endedWith _ _ _ _

/-- Going on changes nothing but STATUS and the position. -/
theorem State.nextElem_onlyStatusChanged (s : State) (n : Nat) :
    onlyStatusChanged s (s.nextElem n State.finish) := by
  unfold State.nextElem; split <;> rfl

@[simp] theorem State.nextElem_clk (s : State) (n : Nat) : (s.nextElem n State.finish).clk = s.clk := by
  unfold State.nextElem; split <;> rfl
@[simp] theorem State.nextElem_cfg (s : State) (n : Nat) : (s.nextElem n State.finish).cfg = s.cfg := by
  unfold State.nextElem; split <;> rfl
@[simp] theorem State.nextElem_history (s : State) (n : Nat) :
    (s.nextElem n State.finish).history = s.history := by
  unfold State.nextElem; split <;> rfl
@[simp] theorem State.nextElem_env (s : State) (n : Nat) : (s.nextElem n State.finish).env = s.env := by
  unfold State.nextElem; split <;> rfl
@[simp] theorem State.nextElem_ref (s : State) (n : Nat) : (s.nextElem n State.finish).ref = s.ref := by
  unfold State.nextElem; split <;> rfl
@[simp] theorem State.nextElem_codec (s : State) (n : Nat) (c : CodecId) :
    (s.nextElem n State.finish).codec c = s.codec c := by
  unfold State.nextElem; split <;> simp
@[simp] theorem State.nextElem_glitchRisk (s : State) (n : Nat) :
    (s.nextElem n State.finish).win.glitchRisk = s.win.glitchRisk := by
  unfold State.nextElem; split <;> rfl
@[simp] theorem State.nextElem_teardownFault (s : State) (n : Nat) :
    (s.nextElem n State.finish).win.teardownFault = s.win.teardownFault := by
  unfold State.nextElem; split <;> rfl
@[simp] theorem State.nextElem_data (s : State) (n : Nat) :
    (s.nextElem n State.finish).win.data = s.win.data := by
  unfold State.nextElem; split <;> rfl

/-- Going on to the next request, from a state x at the same position and with the same STATUS as s. -/
theorem State.nextReq_toNextRequest {s x : State} (hb : stillBusy s x) (hp : x.position = s.position) :
    toNextRequest s x.nextReq := ⟨hb, by simp [hp]⟩

/-! ## Reading a codec's registers after a write -/

/-- The shadow after a register write (R142). -/
theorem State.afterWriteReg_shadow (s : State) (c c' : CodecId) (a a' v : Nat) (d : Answer)
    (hwf : Memory.wf (shadowDefault s.cfg) (s.codec c).shadow) :
    (s.afterWriteReg c a v d).shadow c' a' =
      if c' = c ∧ a' = a then (if d.ok then some v else none) else s.shadow c' a' := by
  unfold State.shadow
  rw [State.afterWriteReg_codec, State.afterWriteReg_cfg]
  by_cases hc : c' = c
  · subst hc
    rw [if_pos rfl, CodecState.afterWrite_shadow]
    by_cases ha : a' = a
    · subst ha; simp [Memory.read_write_same _ hwf]
    · simp [ha, Memory.read_write_ne _ _ _ ha]
  · simp [hc]

/-- The shadow reads only the configuration and the codecs. -/
theorem State.shadow_congr {s t : State} (hcfg : t.cfg = s.cfg) (c : CodecId) (h : (t.codec c).shadow = (s.codec c).shadow)
    (a : Nat) : t.shadow c a = s.shadow c a := by
  unfold State.shadow; rw [hcfg, h]

/-- What a register write leaves, in the words of R142. -/
theorem State.afterWriteReg_registerWritten (s : State) (c : CodecId) (a v : Nat) (d : Answer)
    (hwf : Memory.wf (shadowDefault s.cfg) (s.codec c).shadow) :
    registerWritten s (s.afterWriteReg c a v d) c a v d.ok := by
  refine ⟨by simp [State.afterWriteReg_shadow s c c a a v d hwf], fun c' a' h => ?_, ?_⟩
  · rw [State.afterWriteReg_shadow s c c' a a' v d hwf, if_neg]
    rintro ⟨rfl, rfl⟩; exact h rfl
  · by_cases ha : a = s.cfg.addrFmtctl <;> cases hd : d.ok <;>
      simp [CodecState.afterWrite, ha, hd]

end Sys2Proof.Machine
end

