-- ==== Sys2Proof/Laws/Effects.lean ====
section
/-! SUPPORT. What one engine step of any command can do to the codec registers, said once; and the small facts about
positions, registers and the reference codec that the statements over all commands need. -/
namespace Sys2Proof.Machine

/-! ## The codec registers over one engine step -/

/-- What a command does to the codec's state once the write has its answer: SET_FMT_SYSCLK sets the association
(R188), POWER_DOWN clears it (R190). -/
def afterAnswer (i : Instr) (s : State) (ok : Bool) (x : CodecState) : CodecState :=
  match i with
  | .setFmtSysclk _ => if ok then x.setSysclk s.eng.cur.arg0 else x
  | .powerDown _ => x.clearSysclk
  | _ => x

/-- The value a step of command i writes to register a of codec c. -/
def storesValue (i : Instr) (s : State) (c : CodecId) (a v : Nat) : Prop :=
  match i with
  | .applyStartup _ => (a, v) ∈ s.cfg.startupBatch
  | .setFmtSysclk _ => ∃ base, s.shadow c a = some base ∧
      v = rmwValue s.cfg base s.cfg.fmtMask s.eng.cur.arg1.toNat
  | .powerUp _ => ∃ base, s.shadow c a = some base ∧ v = rmwValue s.cfg base s.cfg.pdMask 0
  | .powerDown _ => v = s.powerDownBase c ||| s.cfg.pdMask
  | .setVolume c ch =>
    (a = addrAttLsb s.cfg ch ∧ v = volLsb s.cfg (volRaw s.cfg c ch s.eng.cur.arg0.toNat)) ∨
    (a = addrAttMsb s.cfg ch ∧ v = volMsb s.cfg (volRaw s.cfg c ch s.eng.cur.arg0.toNat))
  | .writeSynced _ d => ∃ base, s.shadow c a = some base ∧
      v = rmwValue s.cfg base (enumMask s.cfg d) (s.eng.cur.arg0.toNat <<< (enumDesc s.cfg d).shift)
  | _ => False

/-- From s to t command i wrote v to register a of codec c, answered by d. -/
structure WroteRegister (i : Instr) (s t : State) (c : CodecId) (a v : Nat) (d : Answer) : Prop where
  phase   : s.position.phase = .body
  target  : storeTarget i s = some (c, a)
  value   : storesValue i s c a v
  history : t.history = s.history ++ [.memWrite c a v d.ok]
  ref     : t.ref = s.ref.write s.cfg c a v d
  codec   : ∀ c', t.codec c' =
    if c' = c then afterAnswer i s d.ok (CodecState.afterWrite s.cfg a v d.ok (s.codec c)) else s.codec c'

/-- From s to t no codec register was written; APPLY_STARTUP may have cleared a sysclk association. -/
def WroteNothing (i : Instr) (s t : State) : Prop :=
  (∀ c a v ok, Event.memWrite c a v ok ∉ t.history.drop s.history.length) ∧ t.ref = s.ref ∧
  ((∀ c, t.codec c = s.codec c) ∨
    ∃ cs c, i = .applyStartup cs ∧ s.position.phase = .body ∧ currentCodec cs s = some c ∧ s.position.req = 0 ∧
      ∀ c', t.codec c' = if c' = c then (s.codec c).clearSysclk else s.codec c')

/-- What one engine step of command i can do to the codec registers. -/
def RegisterEffect (i : Instr) (s t : State) : Prop :=
  WroteNothing i s t ∨ ∃ c a v d, WroteRegister i s t c a v d

variable {i : Instr} {s t x : State}

/-- Nothing was written where only such events were recorded and the codecs are as before. -/
theorem RegisterEffect.of_events {evs : List Event} (h : t.history = s.history ++ evs)
    (he : ∀ c a v ok, Event.memWrite c a v ok ∉ evs) (hr : t.ref = s.ref) (hc : ∀ c, t.codec c = s.codec c) :
    RegisterEffect i s t := .inl ⟨by rw [h]; simpa using he, hr, .inl hc⟩

/-- Nothing was written where nothing was recorded. -/
theorem RegisterEffect.of_none (h : t.history = s.history) (hr : t.ref = s.ref) (hc : ∀ c, t.codec c = s.codec c) :
    RegisterEffect i s t := .of_events (evs := []) (by simpa using h) (by simp) hr hc

/-- A check writes no register. -/
theorem RegisterEffect.of_check (h : onlyStatusChanged s t) : RegisterEffect i s t := by
  obtain ⟨-, -, -, hc, hr, hh, -⟩ := h.kept
  exact .of_none hh hr hc

/-- A clock request writes no register. -/
theorem RegisterEffect.of_clk (h : ∃ op k ok, t.history = s.history ++ [.clkReq op k ok]) (hr : t.ref = s.ref)
    (hc : ∀ c, t.codec c = s.codec c) : RegisterEffect i s t := by
  obtain ⟨op, k, ok, h⟩ := h
  exact .of_events h (by simp) hr hc

/-- A register read writes no register. -/
theorem RegisterEffect.of_read (h : ∃ c a v, t.history = s.history ++ [.memRead c a v]) (hr : t.ref = s.ref)
    (hc : ∀ c, t.codec c = s.codec c) : RegisterEffect i s t := by
  obtain ⟨c, a, v, h⟩ := h
  exact .of_events h (by simp) hr hc

/-- A register write, where what follows it leaves the history, the reference codec and, but for `afterAnswer`, the
codecs alone. -/
theorem RegisterEffect.of_write {c : CodecId} {a v : Nat} {d : Answer} {e : Environment}
    (hx : x = ({ s with env := e } : State).afterWriteReg c a v d) (hp : s.position.phase = .body)
    (ht : storeTarget i s = some (c, a)) (hv : storesValue i s c a v) (h1 : t.history = x.history)
    (h2 : t.ref = x.ref) (h3 : ∀ c', t.codec c' = if c' = c then afterAnswer i s d.ok (x.codec c) else x.codec c') :
    RegisterEffect i s t := by
  subst hx
  refine .inr ⟨c, a, v, d, hp, ht, hv, by rw [h1]; rfl, by rw [h2]; rfl, fun c' => ?_⟩
  rw [h3]
  by_cases h : c' = c
  · simp [h]
  · simp [h]

/-- The end of POWER_DOWN records nothing and leaves the codecs alone. -/
theorem State.nextElem_down_kept (s : State) (n : Nat) :
    (s.nextElem n State.endPowerDown).history = s.history ∧ (s.nextElem n State.endPowerDown).ref = s.ref ∧
    ∀ c, (s.nextElem n State.endPowerDown).codec c = s.codec c := by
  unfold State.nextElem State.endPowerDown
  split
  · exact ⟨rfl, rfl, by intro c; cases c <;> rfl⟩
  · split <;> simp [State.codec]

/-- The group commands' request steps. -/
theorem exec_registers_group {g : Group}
    (hi : i = .prepareAll g ∨ i = .enableAll g ∨ i = .disableAll g ∨ i = .unprepareAll g)
    (h : exec i s = .next t) : RegisterEffect i s t := by
  obtain ⟨P, hP⟩ : ∃ P : State → Prop, ∀ t, P t ↔ RegisterEffect i s t := ⟨_, fun _ => Iff.rfl⟩
  rw [← hP]
  rcases hi with rfl | rfl | rfl | rfl
  all_goals
    simp only [exec, execPrepareAll, execEnableAll, execDisableAll, execUnprepareAll] at h
    first
      | refine State.byPhase_elim h (fun _ => ?_) (fun _ => ?_) (fun _ => ?_)
      | refine State.byGuards_elim h (fun _ _ hx => nomatch hx)
          (fun _ _ => (hP _).mpr (.of_check (State.enterGuards_onlyStatusChanged _ _ _)))
          (fun _ => (hP _).mpr (.of_check (State.guardStep_onlyStatusChanged _ _ _))) (fun _ => ?_)
  all_goals
    repeat' first
      | refine State.enterBody_elim (fun _ => ?_) (fun _ => ?_)
      | refine State.atElem_elim (fun _ _ => ?_) (fun _ => ?_)
      | refine State.startReq_elim (fun _ => ?_) (fun _ => ?_) (fun _ => ?_)
      | refine State.teardownReq_elim (fun _ => ?_) (fun _ => ?_) (fun _ => ?_)
      | refine State.nextElem_elim (fun _ => ?_) (fun _ => ?_)
      | split
  all_goals
    rw [hP]
    first
      | (refine .of_none ?_ ?_ ?_ <;> simp; done)
      | (refine .of_clk ?_ ?_ ?_ <;> simp)

/-- SELECT_MASTER. -/
theorem exec_registers_select (h : exec .selectMaster s = .next t) : RegisterEffect .selectMaster s t := by
  simp only [exec, execSelectMaster] at h
  refine State.byPhase_elim h (fun _ => ?_) (fun _ => ?_) (fun _ => .of_check rfl)
  · split
    · refine .of_none ?_ ?_ ?_ <;> simp
    · split
      · refine .of_none ?_ ?_ ?_ <;> simp
      · refine State.enterBody_elim (fun _ => ?_) (fun _ => ?_) <;> (refine .of_none ?_ ?_ ?_ <;> simp)
  · split
    · refine .of_none ?_ ?_ ?_ <;> simp
    · refine State.clkReq_elim (fun _ => by refine .of_none ?_ ?_ ?_ <;> simp) (fun _ _ => ?_)
      split <;> (refine .of_clk ?_ ?_ ?_ <;> simp)
    · refine State.startReq_elim (fun _ => by refine .of_none ?_ ?_ ?_ <;> simp) (fun _ => ?_) (fun _ => ?_) <;>
        (refine .of_clk ?_ ?_ ?_ <;> simp)
    · refine State.startReq_elim (fun _ => by refine .of_none ?_ ?_ ?_ <;> simp) (fun _ => ?_) (fun _ => ?_)
      · refine .of_events (evs := [.clkReq .enable .gate true, .settleStart s.now]) ?_ ?_ ?_ ?_ <;> simp
      · refine .of_clk ?_ ?_ ?_ <;> simp
    · refine State.awaitAnswer_elim (fun _ => by refine .of_none ?_ ?_ ?_ <;> simp) (fun d e => ?_)
      exact .of_events (evs := [.settleEnd _]) rfl (by simp) rfl (by intro c; cases c <;> rfl)

/-- RELEASE_MASTER. -/
theorem exec_registers_release (h : exec .releaseMaster s = .next t) : RegisterEffect .releaseMaster s t := by
  simp only [exec, execReleaseMaster] at h
  refine State.byPhase_elim h (fun _ => ?_) (fun _ => ?_) (fun _ => .of_check rfl)
  · refine State.enterBody_elim (fun _ => ?_) (fun _ => ?_) <;> (refine .of_none ?_ ?_ ?_ <;> simp)
  · split
    · split
      · refine State.teardownReq_elim (fun _ => by refine .of_none ?_ ?_ ?_ <;> simp) (fun _ => ?_) (fun _ => ?_) <;>
          split <;> (refine .of_clk ?_ ?_ ?_ <;> simp)
      · refine .of_none ?_ ?_ ?_ <;> simp
    · split
      · refine State.teardownReq_elim (fun _ => by refine .of_none ?_ ?_ ?_ <;> simp) (fun _ => ?_) (fun _ => ?_) <;>
          (refine .of_clk ?_ ?_ ?_ <;> simp)
      · refine .of_none ?_ ?_ ?_ <;> simp

/-- GET_VOLUME. -/
theorem exec_registers_get {c : CodecId} {ch : Channel} (h : exec (.getVolume c ch) s = .next t) :
    RegisterEffect (.getVolume c ch) s t := by
  simp only [exec, execGetVolume] at h
  refine State.byPhase_elim h (fun _ => ?_) (fun _ => ?_) (fun _ => .of_check rfl)
  · split
    · refine .of_none ?_ ?_ ?_ <;> simp
    · refine State.enterBody_elim (fun _ => ?_) (fun _ => ?_) <;> (refine .of_none ?_ ?_ ?_ <;> simp)
  · split <;>
      refine State.readReg_elim (fun _ => by refine .of_none ?_ ?_ ?_ <;> simp) (fun _ _ _ => ?_) (fun _ _ => ?_) <;>
      (refine .of_read ?_ ?_ ?_ <;> simp)

/-- READ_SYNCED. -/
theorem exec_registers_readSynced {cs : CodecSet} {q : Control} (h : exec (.readSynced cs q) s = .next t) :
    RegisterEffect (.readSynced cs q) s t := by
  simp only [exec, execReadSynced] at h
  refine State.byPhase_elim h (fun _ => ?_) (fun _ => ?_) (fun _ => .of_check rfl)
  · refine State.enterBody_elim (fun _ => ?_) (fun _ => ?_) <;> (refine .of_none ?_ ?_ ?_ <;> simp)
  · split
    · refine State.readReg_elim (fun _ => by refine .of_none ?_ ?_ ?_ <;> simp) (fun _ _ _ => ?_)
        (fun _ _ => by refine .of_read ?_ ?_ ?_ <;> simp)
      refine State.nextElem_elim (fun _ => ?_) (fun _ => ?_) <;>
        (refine .of_read ?_ ?_ ?_ <;> simp [State.endReadSynced])
    · refine State.compareSynced_elim (fun _ _ _ _ => .of_check rfl) (fun _ _ _ _ => ?_) (fun _ => .of_check rfl)
      refine State.nextElem_elim (fun _ => ?_) (fun _ => ?_) <;>
        (refine .of_none ?_ ?_ ?_ <;> simp [State.endReadSynced])

/-- APPLY_STARTUP. -/
theorem exec_registers_startup {cs : CodecSet} (h : exec (.applyStartup cs) s = .next t) :
    RegisterEffect (.applyStartup cs) s t := by
  simp only [exec, execApplyStartup] at h
  refine State.byGuards_elim h (fun _ _ hx => nomatch hx)
    (fun _ _ => .of_check (State.enterGuards_onlyStatusChanged _ _ _))
    (fun _ => .of_check (State.guardStep_onlyStatusChanged _ _ _)) (fun hp => ?_)
  · refine State.atElem_elim (fun c hc => ?_) (fun _ => by refine .of_none ?_ ?_ ?_ <;> simp)
    split
    · rename_i hr
      exact .inl ⟨by simp, by simp, .inr ⟨cs, c, rfl, hp, hc, hr, fun c' => by simp⟩⟩
    · rename_i r hr
      split
      · refine State.nextElem_elim (fun _ => ?_) (fun _ => ?_) <;> (refine .of_none ?_ ?_ ?_ <;> simp)
      · rename_i a v hb
        refine State.writeReg_elim (fun _ => by refine .of_none ?_ ?_ ?_ <;> simp) (fun d e => ?_)
        have ht : storeTarget (.applyStartup cs) s = some (c, a) := by
          unfold storeTarget; rw [hp]; simp [currentCodec, hc, hr, hb]
        split
        · split
          · refine .of_write (c := c) (a := a) (v := v) (d := d) (e := e) rfl hp ht (List.mem_of_getElem? hb) ?_ ?_ ?_ <;>
              simp [afterAnswer]
          · refine .of_write (c := c) (a := a) (v := v) (d := d) (e := e) rfl hp ht (List.mem_of_getElem? hb) ?_ ?_ ?_ <;>
              simp [afterAnswer]
        · refine .of_write (c := c) (a := a) (v := v) (d := d) (e := e) rfl hp ht (List.mem_of_getElem? hb) ?_ ?_ ?_ <;>
            simp [afterAnswer]

/-- The commands whose element is one read-modify-write. -/
theorem exec_registers_rmw {cs : CodecSet} (hi : i = .setFmtSysclk cs ∨ i = .powerUp cs ∨ ∃ d, i = .writeSynced cs d)
    (h : exec i s = .next t) : RegisterEffect i s t := by
  rcases hi with rfl | rfl | ⟨q, rfl⟩
  all_goals
    simp only [exec, execSetFmtSysclk, execPowerUp, execWriteSynced] at h
    first
      | refine State.byPhase_elim h (fun hp => ?_) (fun hp => ?_) (fun _ => .of_check rfl)
      | refine State.byGuards_elim h (fun x _ hx => ?_)
          (fun _ _ => .of_check (State.enterGuards_onlyStatusChanged _ _ _))
          (fun _ => .of_check (State.guardStep_onlyStatusChanged _ _ _)) (fun hp => ?_)
  all_goals first
    | refine .of_check ?_
      revert hx
      repeat' split
      all_goals
        intro hx
        cases hx
        try rfl
    | refine State.atElem_elim (fun c hc => ?_) (fun _ => by refine .of_none ?_ ?_ ?_ <;> simp)
      refine State.rmw_elim (fun _ => by refine .of_none ?_ ?_ ?_ <;> simp)
        (fun _ _ _ => by refine .of_none ?_ ?_ ?_ <;> simp) (fun b hb d e => ?_)
      split
      all_goals
        rename_i hd
        refine .of_write (c := c) (d := d) (e := e) rfl hp (by unfold storeTarget; rw [hp]; simp [currentCodec, hc])
          ⟨b, hb, rfl⟩ ?_ ?_ ?_
        · simp
        · simp
        · intro c'; cases c <;> cases c' <;> simp [afterAnswer, hd]
    | skip
  all_goals
    repeat' first
      | refine State.enterBody_elim (fun _ => ?_) (fun _ => ?_)
      | split
  all_goals refine .of_none ?_ ?_ ?_ <;> simp

/-- POWER_DOWN. -/
theorem exec_registers_down {cs : CodecSet} (h : exec (.powerDown cs) s = .next t) :
    RegisterEffect (.powerDown cs) s t := by
  simp only [exec, execPowerDown] at h
  refine State.byPhase_elim h (fun hp => ?_) (fun hp => ?_) (fun _ => .of_check rfl)
  · refine State.enterBody_elim (fun _ => ?_) (fun _ => ?_) <;> (refine .of_none ?_ ?_ ?_ <;> simp)
  · refine State.atElem_elim (fun c hc => ?_) (fun _ => by refine .of_none ?_ ?_ ?_ <;> simp)
    refine State.writeReg_elim (fun _ => by refine .of_none ?_ ?_ ?_ <;> simp) (fun d e => ?_)
    have ht : storeTarget (.powerDown cs) s = some (c, s.cfg.addrFmtctl) := by
      unfold storeTarget; rw [hp]; simp [currentCodec, hc]
    refine .of_write (c := c) (d := d) (e := e) rfl hp ht rfl ((State.nextElem_down_kept _ _).1.trans ?_)
      ((State.nextElem_down_kept _ _).2.1.trans ?_) (fun c' => ((State.nextElem_down_kept _ _).2.2 c').trans ?_)
    · split <;> rfl
    · split <;> rfl
    · split <;> cases c <;> cases c' <;> simp [afterAnswer]

/-- SET_VOLUME. -/
theorem exec_registers_volume {c : CodecId} {ch : Channel} (h : exec (.setVolume c ch) s = .next t) :
    RegisterEffect (.setVolume c ch) s t := by
  simp only [exec, execSetVolume] at h
  refine State.byPhase_elim h (fun hp => ?_) (fun hp => ?_) (fun _ => .of_check rfl)
  · repeat' first
      | refine State.enterBody_elim (fun _ => ?_) (fun _ => ?_)
      | split
    all_goals refine .of_none ?_ ?_ ?_ <;> simp
  · split
    · rename_i hr
      have ht : storeTarget (.setVolume c ch) s = some (c, addrAttLsb s.cfg ch) := by
        unfold storeTarget; rw [hp, hr]
      refine State.writeReg_elim (fun _ => by refine .of_none ?_ ?_ ?_ <;> simp) (fun d e => ?_)
      split <;>
        (refine .of_write (c := c) (d := d) (e := e) rfl hp ht (.inl ⟨rfl, rfl⟩) ?_ ?_ ?_ <;> simp [afterAnswer])
    · rename_i r hr
      have ht : storeTarget (.setVolume c ch) s = some (c, addrAttMsb s.cfg ch) := by
        unfold storeTarget; rw [hp, hr]
      refine State.writeReg_elim (fun _ => by refine .of_none ?_ ?_ ?_ <;> simp) (fun d e => ?_)
      split <;>
        (refine .of_write (c := c) (d := d) (e := e) rfl hp ht (.inr ⟨rfl, rfl⟩) ?_ ?_ ?_ <;> simp [afterAnswer])

/-- One engine step of any command writes one register, the one `storeTarget` names, or none. -/
theorem exec_registers (h : exec i s = .next t) : RegisterEffect i s t := by
  cases i with
  | prepareAll g => exact exec_registers_group (g := g) (by simp) h
  | enableAll g => exact exec_registers_group (g := g) (by simp) h
  | disableAll g => exact exec_registers_group (g := g) (by simp) h
  | unprepareAll g => exact exec_registers_group (g := g) (by simp) h
  | selectMaster => exact exec_registers_select h
  | releaseMaster => exact exec_registers_release h
  | applyStartup cs => exact exec_registers_startup h
  | setFmtSysclk cs => exact exec_registers_rmw (.inl rfl) h
  | powerUp cs => exact exec_registers_rmw (.inr (.inl rfl)) h
  | powerDown cs => exact exec_registers_down h
  | setVolume c ch => exact exec_registers_volume h
  | getVolume c ch => exact exec_registers_get h
  | readSynced cs d => exact exec_registers_readSynced h
  | writeSynced cs d => exact exec_registers_rmw (.inr (.inr ⟨d, rfl⟩)) h

/-- Where a write is recorded, it was made. -/
theorem RegisterEffect.wrote {c : CodecId} {a v : Nat} {ok : Bool} (h : RegisterEffect i s t)
    (hr : recorded s t [.memWrite c a v ok]) : ∃ d : Answer, d.ok = ok ∧ WroteRegister i s t c a v d := by
  unfold recorded at hr
  rcases h with ⟨h, -⟩ | ⟨c', a', v', d, h⟩
  · exact absurd (by rw [hr]; simp) (h c a v ok)
  · have hh := h.history
    rw [hr] at hh
    simp at hh
    obtain ⟨rfl, rfl, rfl, rfl⟩ := hh
    exact ⟨d, rfl, h⟩

/-! ## The reference codec (R69 to R76) -/

/-- A taken write stores its value, whatever else it does (R70 to R72). -/
theorem RefCodec.take_reg (cfg : Config) (r : RefCodec) (a v : Nat) :
    (RefCodec.take cfg r a v).reg = Memory.write (resetDefault cfg) r.reg a v := by
  unfold RefCodec.take
  cases lsbChannel cfg a with
  | some ch => cases ch <;> rfl
  | none =>
    cases msbChannel cfg a with
    | none => rfl
    | some ch =>
      dsimp only
      split
      · cases ch <;> rfl
      · rfl

/-- A write leaves the other codec alone. -/
theorem RefModel.write_codec_ne (cfg : Config) (m : RefModel) {c c' : CodecId} (a v : Nat) (d : Answer) (h : c' ≠ c) :
    (m.write cfg c a v d).codec c' = m.codec c' := by
  unfold RefModel.write
  split
  · cases c <;> cases c' <;> first | rfl | exact absurd rfl h
  · rfl

/-- What a write does to its codec (R62, R76). -/
theorem RefModel.write_codec_same (cfg : Config) (m : RefModel) (c : CodecId) (a v : Nat) (d : Answer) :
    (m.write cfg c a v d).codec c =
      if m.plugged && (d.ok || d.taken) then RefCodec.take cfg (m.codec c) a v else m.codec c := by
  unfold RefModel.write
  split
  · cases c <;> rfl
  · rfl

/-- A write of one register leaves every other register alone. -/
theorem RefModel.write_readReg_ne (cfg : Config) (m : RefModel) {c c' : CodecId} {a b : Nat} (v : Nat) (d : Answer)
    (h : ¬(c' = c ∧ b = a)) :
    ((m.write cfg c a v d).codec c').readReg cfg b = (m.codec c').readReg cfg b := by
  by_cases hc : c' = c
  · subst hc
    rw [write_codec_same]
    split
    · unfold RefCodec.readReg
      rw [RefCodec.take_reg, Memory.read_write_ne _ _ _ (fun hb => h ⟨rfl, hb⟩)]
    · rfl
  · rw [write_codec_ne _ _ _ _ _ hc]

/-- The attenuation addresses of an instance differ (R7). -/
theorem att_addrs_ne {cfg : Config} (hok : configOk cfg = true) (ch ch' : Channel) :
    addrAttMsb cfg ch ≠ addrAttLsb cfg ch' ∧
    (ch ≠ ch' → addrAttMsb cfg ch ≠ addrAttMsb cfg ch' ∧ addrAttLsb cfg ch ≠ addrAttLsb cfg ch') := by
  have h := configOk_distinct hok
  simp [fixedAddrs] at h
  cases ch <;> cases ch' <;> simp [addrAttLsb, addrAttMsb] <;> omega

/-- The channel of an LSB register. -/
theorem lsbChannel_lsb {cfg : Config} (hok : configOk cfg = true) (ch : Channel) :
    lsbChannel cfg (addrAttLsb cfg ch) = some ch := by
  have h := configOk_distinct hok
  simp [fixedAddrs] at h
  cases ch <;> simp [addrAttLsb, lsbChannel]
  omega

/-- An MSB register is no LSB register. -/
theorem lsbChannel_msb {cfg : Config} (hok : configOk cfg = true) (ch : Channel) :
    lsbChannel cfg (addrAttMsb cfg ch) = none := by
  have h1 : addrAttMsb cfg ch ≠ cfg.addrAttLsb0 := (att_addrs_ne hok ch .ch0).1
  have h2 : addrAttMsb cfg ch ≠ cfg.addrAttLsb1 := (att_addrs_ne hok ch .ch1).1
  unfold lsbChannel
  rw [if_neg h1, if_neg h2]

/-- The channel of an MSB register. -/
theorem msbChannel_msb {cfg : Config} (hok : configOk cfg = true) (ch : Channel) :
    msbChannel cfg (addrAttMsb cfg ch) = some ch := by
  have h := configOk_distinct hok
  simp [fixedAddrs] at h
  cases ch <;> simp [addrAttMsb, msbChannel]
  omega

/-! ## Registers and frames -/

/-- The power state after a write (R142). -/
theorem CodecState.afterWrite_pd (cfg : Config) (a v : Nat) (ok : Bool) (x : CodecState) :
    (CodecState.afterWrite cfg a v ok x).pd =
      if a = cfg.addrFmtctl then (if ok then (if v &&& cfg.pdMask ≠ 0 then .down else .up) else .unknown)
      else x.pd := by
  unfold CodecState.afterWrite; cases ok <;> simp

/-- What follows a write leaves the power state and the shadow alone. -/
theorem afterAnswer_kept (i : Instr) (s : State) (ok : Bool) (x : CodecState) :
    (afterAnswer i s ok x).pd = x.pd ∧ (afterAnswer i s ok x).shadow = x.shadow := by
  unfold afterAnswer
  split
  · split <;> exact ⟨rfl, rfl⟩
  · exact ⟨rfl, rfl⟩
  · exact ⟨rfl, rfl⟩

/-- The read-modify-write value, bit by bit (R143). -/
theorem rmwValue_testBit (cfg : Config) (base clear set i : Nat) : (rmwValue cfg base clear set).testBit i =
    (decide (i < cfg.regDataBits) && (set.testBit i || (base.testBit i && !clear.testBit i))) := by
  simp only [rmwValue, clearBits, Nat.testBit_mod_two_pow, Nat.testBit_or, Nat.testBit_xor, Nat.testBit_and]
  cases base.testBit i <;> cases clear.testBit i <;> cases set.testBit i <;> simp

/-- A step leaves every codec register alone but the one `storeTarget` names. -/
theorem RegisterEffect.registersKeptBut (h : RegisterEffect i s t) (hc : t.cfg = s.cfg) :
    Machine.registersKeptBut s t (storeTarget i s) := by
  rcases h with ⟨-, hr, h⟩ | ⟨c, a, v, d, h⟩
  · intro c a _
    rw [hr, hc]
    refine ⟨State.shadow_congr hc c ?_ a, rfl⟩
    rcases h with h | ⟨cs, c', -, -, -, -, h⟩
    · rw [h]
    · rw [h]
      split
      · rename_i hh; subst hh; rfl
      · rfl
  · intro c' b hne
    rw [h.target] at hne
    have hn : ¬(c' = c ∧ b = a) := by rintro ⟨rfl, rfl⟩; exact hne rfl
    refine ⟨?_, ?_⟩
    · unfold State.shadow
      rw [hc, h.codec]
      by_cases hcc : c' = c
      · subst hcc
        rw [if_pos rfl, (afterAnswer_kept _ _ _ _).2, CodecState.afterWrite_shadow,
          Memory.read_write_ne _ _ _ (fun hb => hn ⟨rfl, hb⟩)]
      · rw [if_neg hcc]
    · rw [h.ref, hc]; exact RefModel.write_readReg_ne _ _ _ _ hn

/-- Setting one flag of one clock. -/
theorem ClockState.setPrepared_flags (c : ClockState) (k k' : Consumer) (b : Bool) :
    (c.setPrepared k b).flags k' = if k' = k then { c.flags k with prepared := b } else c.flags k' := by
  cases k <;> cases k' <;> rfl

theorem ClockState.setEnabled_flags (c : ClockState) (k k' : Consumer) (b : Bool) :
    (c.setEnabled k b).flags k' = if k' = k then { c.flags k with enabled := b } else c.flags k' := by
  cases k <;> cases k' <;> rfl

/-- The group of every clock is the present clocks (R22, R23). -/
theorem mem_groupBoth (cfg : Config) (k : Consumer) : k ∈ groupBoth cfg ↔ clockPresent cfg k = true := by
  unfold groupBoth groupLrclk clockPresent groupBclk
  cases cfg.clockShape <;> cases k <;> simp

/-! ## Running a command -/

/-- One engine step of a run. -/
theorem runExec_step {n : Nat} (hb : s.eng.busy = true) (h : exec i s = .next t) :
    runExec i (n + 1) s = runExec i n t := by
  simp [runExec, hb, h]

/-- A run stops when the command has ended. -/
theorem runExec_done {n : Nat} (hb : s.eng.busy = false) : runExec i n s = .next s := by
  cases n <;> simp [runExec, hb]

/-- Runs add up. -/
theorem runExec_add {n m : Nat} (h : runExec i n s = .next t) : runExec i (n + m) s = runExec i m t := by
  induction n generalizing s with
  | zero => simp only [runExec, Host.Outcome.next.injEq] at h; subst h; simp
  | succ n ih =>
    rw [Nat.succ_add]
    by_cases hb : s.eng.busy = true
    · obtain ⟨u, hu⟩ := exec_isNext i s
      rw [runExec_step hb hu] at h ⊢
      exact ih h
    · have hb' : s.eng.busy = false := by simpa using hb
      rw [runExec_done hb', Host.Outcome.next.injEq] at h
      subst h
      rw [runExec_done hb', runExec_done hb']

/-! ## Running the guard loops of a command -/

/-- Command i at s has the guard loops gs before a body of n elements: what it does at its issue and at each iteration. -/
structure HasGuards (i : Instr) (s : State) (gs : List GuardCheck) (n : Nat) : Prop where
  atStart : s.atStart
  enter   : exec i s = .next (s.enterGuards gs n)
  step    : ∀ q : Position, q.phase = .guards →
    exec i (s.goTo fun _ => q) = .next ((s.goTo fun _ => q).guardStep gs n)

/-- The state with the engine at iteration j of the guard loops. -/
def State.atGuard (s : State) (j : Nat) : State := s.goTo fun p => { p with phase := .guards, elem := j, req := 0 }

variable {gs : List GuardCheck} {n : Nat}

/-- What one step at iteration j does. -/
theorem HasGuards.stepAt (h : HasGuards i s gs n) (j : Nat) :
    exec i (s.atGuard j) = .next ((s.atGuard j).guardStep gs n) := h.step _ rfl

/-- Past the iterations before j the engine is at j. -/
theorem HasGuards.run (h : HasGuards i s gs n) {j : Nat} (hj : j < gs.length)
    (hp : ∀ x ∈ gs.take j, x.fails = false) : runExec i (1 + j) s = .next (s.atGuard j) := by
  induction j with
  | zero =>
    rw [runExec_step h.atStart.1 h.enter, runExec, State.enterGuards, if_neg (by
      rw [List.isEmpty_iff]; rintro rfl; simp at hj)]
    rfl
  | succ j ih =>
    have hlt : j < gs.length := by omega
    rw [← Nat.add_assoc, runExec_add (ih hlt fun x hx => hp x (List.take_subset_take_left _ (by omega) hx)),
      runExec_step (by exact h.atStart.1) (h.stepAt j), runExec]
    have hf : gs[j].fails = false := hp _ (by
      rw [List.take_succ_eq_append_getElem hlt, List.mem_append]; exact .inr (List.mem_singleton.mpr rfl))
    have he : gs[(s.atGuard j).position.elem]? = some gs[j] := List.getElem?_eq_getElem hlt
    rw [State.guardStep, State.atElem_some he, if_neg (by simp [hf]), State.nextElem, if_pos (by exact hj)]
    rfl

/-- A run reaches an iteration whose predecessors pass. -/
theorem HasGuards.reaches (h : HasGuards i s gs n) {j : Nat} (hj : j < gs.length)
    (hp : ∀ x ∈ gs.take j, x.fails = false) : reachesGuard i s j :=
  ⟨_, h.run hj hp, ⟨rfl, rfl, rfl, rfl⟩, rfl, _, rfl, rfl, rfl, rfl⟩

/-- A run is refused at the first iteration that fails. -/
theorem HasGuards.refused (h : HasGuards i s gs n) {pre post : List GuardCheck} {g : GuardCheck}
    (hl : gs = pre ++ g :: post) (hp : ∀ x ∈ pre, x.fails = false) (hf : g.fails = true) :
    refusedAtGuard i s pre.length g.id g.guard.number := by
  have hlt : pre.length < gs.length := by simp [hl]
  have htake : ∀ x ∈ gs.take pre.length, x.fails = false := by simpa [hl] using hp
  refine ⟨h.reaches hlt htake, _, ?_, State.raise_endedWith (s.atGuard pre.length) _ _ _, ?_⟩
  · rw [show 2 + pre.length = 1 + pre.length + 1 by omega, runExec_add (h.run hlt htake),
      runExec_step (by exact h.atStart.1) (h.stepAt _), runExec]
    have he : gs[(s.atGuard pre.length).position.elem]? = some g := by
      show gs[pre.length]? = some g
      simp [hl]
    rw [State.guardStep, State.atElem_some he, if_pos hf]
    rfl
  · rfl

/-- A run whose guards all pass enters the body. -/
theorem HasGuards.passes (h : HasGuards i s gs n) (hp : ∀ x ∈ gs, x.fails = false) :
    passesGuards i s gs.length n := by
  refine ⟨fun k hk => h.reaches hk fun x hx => hp x (List.mem_of_mem_take hx), ?_⟩
  rcases Nat.eq_zero_or_pos gs.length with h0 | h0
  · obtain rfl : gs = [] := List.eq_nil_of_length_eq_zero h0
    exact ⟨_, by rw [List.length_nil, runExec_step h.atStart.1 h.enter]; rfl, State.enterBody_entered s n,
      State.enterBody_onlyStatusChanged s n⟩
  · obtain ⟨j, hj⟩ : ∃ j, gs.length = j + 1 := ⟨gs.length - 1, by omega⟩
    have hlt : j < gs.length := by omega
    refine ⟨(s.atGuard j).enterBody n, ?_, State.enterBody_entered (s.atGuard j) n,
      (show onlyStatusChanged s (s.atGuard j) from rfl).trans (State.enterBody_onlyStatusChanged _ n)⟩
    rw [hj, ← Nat.add_assoc, runExec_add (h.run hlt fun x hx => hp x (List.mem_of_mem_take hx)),
      runExec_step (by exact h.atStart.1) (h.stepAt j), runExec]
    have he : gs[(s.atGuard j).position.elem]? = some gs[j] := List.getElem?_eq_getElem hlt
    rw [State.guardStep, State.atElem_some he, if_neg (by simp [hp _ (List.getElem_mem hlt)]), State.nextElem,
      if_neg (by show ¬ j + 1 < gs.length; omega)]

/-- A run with an iteration that fails is refused, and changes nothing but STATUS. -/
theorem HasGuards.refusedWithin (h : HasGuards i s gs n) (hf : ∃ x ∈ gs, x.fails = true) {m : Nat}
    (hm : 1 + gs.length ≤ m) :
    completesIn m i s fun t => t.eng.busy = false ∧ t.win.code = .sequenceError ∧ onlyStatusChanged s t := by
  obtain ⟨g, hg⟩ : ∃ g, gs.find? (·.fails) = some g := by
    rw [← Option.isSome_iff_exists, List.find?_isSome]; exact hf
  obtain ⟨hgf, pre, post, hl, hpre⟩ := List.find?_eq_some_iff_append.mp hg
  obtain ⟨-, t, ht, he, ho⟩ := h.refused hl (fun x hx => by simpa using hpre x hx) hgf
  have hlen : 2 + pre.length ≤ m := by have := congrArg List.length hl; simp at this; omega
  refine ⟨t, ?_, he.1, he.2.2.1, ho⟩
  rw [show m = 2 + pre.length + (m - (2 + pre.length)) by omega, runExec_add ht, runExec_done he.1]

/-- The five commands with guard loops, where their first check passes. -/
theorem hasGuards_enableAll (g : Group) (h : s.atStart) :
    HasGuards (.enableAll g) s (enableGuards g s) (groupList s.cfg g).length :=
  ⟨h, by rw [exec, execEnableAll, State.byGuards_start _ _ _ _ h]; rfl, fun q hq => by
    rw [exec, execEnableAll, State.byGuards_eq, State.goTo_position, hq]; rfl⟩

theorem hasGuards_unprepareAll (g : Group) (h : s.atStart) :
    HasGuards (.unprepareAll g) s (unprepareGuards g s) (groupList s.cfg g).reverse.length :=
  ⟨h, by rw [exec, execUnprepareAll, State.byGuards_start _ _ _ _ h]; rfl, fun q hq => by
    rw [exec, execUnprepareAll, State.byGuards_eq, State.goTo_position, hq]; rfl⟩

theorem hasGuards_applyStartup (cs : CodecSet) (h : s.atStart) :
    HasGuards (.applyStartup cs) s (startupGuards cs s) (codecList cs).length :=
  ⟨h, by rw [exec, execApplyStartup, State.byGuards_start _ _ _ _ h]; rfl, fun q hq => by
    rw [exec, execApplyStartup, State.byGuards_eq, State.goTo_position, hq]
    simp [startupGuards]⟩

theorem hasGuards_setFmtSysclk (cs : CodecSet) (h : s.atStart) (hm : isMasterRate s.eng.cur.arg0 = true)
    (hf : withinMask s.eng.cur.arg1.toNat s.cfg.fmtMask = true) :
    HasGuards (.setFmtSysclk cs) s (fmtGuards cs s) (codecList cs).length :=
  ⟨h, by rw [exec, execSetFmtSysclk, State.byGuards_start _ _ _ _ h]; simp [hm, hf], fun q hq => by
    rw [exec, execSetFmtSysclk, State.byGuards_eq, State.goTo_position, hq]
    simp [fmtGuards]⟩

theorem hasGuards_powerUp (cs : CodecSet) (h : s.atStart) (hm : s.clk.masterClockEnabled = true) :
    HasGuards (.powerUp cs) s (powerUpGuards cs s) (codecList cs).length :=
  ⟨h, by rw [exec, execPowerUp, State.byGuards_start _ _ _ _ h]; simp [State.masterReady, hm], fun q hq => by
    rw [exec, execPowerUp, State.byGuards_eq, State.goTo_position, hq]
    simp [powerUpGuards, State.sysclkChecks]⟩

end Sys2Proof.Machine
end

