-- ==== Sys2Proof/Laws/HostProgram.lean ====
section
/-! SUPPORT. The named settings of the enumerated controls (R235) are exactly the legal values (R185). -/
namespace Sys2Proof.Machine

/-- A value names a setting exactly if it is that setting's value at its control. -/
theorem settingOfValue_eq_some {d : Control} {v : Nat} {x : ControlSetting} :
    settingOfValue d v = some x ↔ settingControl x = d ∧ settingValue x = v := by
  constructor
  · intro h
    obtain ⟨hv, hx⟩ := List.getElem?_eq_some_iff.mp h
    subst hx
    cases d <;> simp only [controlSettings, List.length_cons, List.length_nil] at hv <;>
      interval_cases v <;> exact ⟨rfl, rfl⟩
  · rintro ⟨rfl, rfl⟩
    rcases x with m | m | ⟨v, hv⟩
    · cases m <;> rfl
    · cases m <;> rfl
    · interval_cases v <;> rfl

/-- The legal values of a control (R185) are those that name a setting. -/
theorem enumLegal_iff_setting (d : Control) (v : Nat) : enumLegal d v = true ↔ ∃ x, settingOfValue d v = some x := by
  rw [← Option.isSome_iff_exists, settingOfValue, enumLegal, decide_eq_true_iff]
  cases d <;> simp [enumCount, controlSettings]

/-- WRITE_SYNCED never refuses the value of a named setting (R194). -/
theorem settingValue_legal (x : ControlSetting) : enumLegal (settingControl x) (settingValue x) = true :=
  (enumLegal_iff_setting _ _).mpr ⟨x, settingOfValue_eq_some.mpr ⟨rfl, rfl⟩⟩

end Sys2Proof.Machine
end

