-- ==== Sys2Proof/Laws/PerInstr.lean ====
section
/-! SUPPORT. One lemma per command about its encoding (R91 to R99): its word selects exactly its own row of the
opcode table, the first one in table order, and the fields read back from that row are its operands. -/
namespace Sys2Proof.Laws

/-- The word of the command selects a row of the table, and that row reads the command back (R98, R99). -/
def TableRow.Statement (i : Instr) : Prop :=
  ∃ r, opcodeRows.find? (fun r => r.selects (encode i)) = some r ∧ readFields r.op (encode i) = .ok i

/-- PREPARE_ALL (R151). -/
theorem TableRow.prepareAll (g : Group) : TableRow.Statement (.prepareAll g) := by
  cases g <;> exact ⟨_, rfl, rfl⟩

/-- ENABLE_ALL (R152). -/
theorem TableRow.enableAll (g : Group) : TableRow.Statement (.enableAll g) := by
  cases g <;> exact ⟨_, rfl, rfl⟩

/-- DISABLE_ALL (R153). -/
theorem TableRow.disableAll (g : Group) : TableRow.Statement (.disableAll g) := by
  cases g <;> exact ⟨_, rfl, rfl⟩

/-- UNPREPARE_ALL (R154). -/
theorem TableRow.unprepareAll (g : Group) : TableRow.Statement (.unprepareAll g) := by
  cases g <;> exact ⟨_, rfl, rfl⟩

/-- SELECT_MASTER (R155). -/
theorem TableRow.selectMaster : TableRow.Statement .selectMaster := ⟨_, rfl, rfl⟩

/-- RELEASE_MASTER (R156). -/
theorem TableRow.releaseMaster : TableRow.Statement .releaseMaster := ⟨_, rfl, rfl⟩

/-- APPLY_STARTUP (R187). -/
theorem TableRow.applyStartup (cs : CodecSet) : TableRow.Statement (.applyStartup cs) := by
  cases cs <;> exact ⟨_, rfl, rfl⟩

/-- SET_FMT_SYSCLK (R188). -/
theorem TableRow.setFmtSysclk (cs : CodecSet) : TableRow.Statement (.setFmtSysclk cs) := by
  cases cs <;> exact ⟨_, rfl, rfl⟩

/-- POWER_UP (R189). -/
theorem TableRow.powerUp (cs : CodecSet) : TableRow.Statement (.powerUp cs) := by
  cases cs <;> exact ⟨_, rfl, rfl⟩

/-- POWER_DOWN (R190). -/
theorem TableRow.powerDown (cs : CodecSet) : TableRow.Statement (.powerDown cs) := by
  cases cs <;> exact ⟨_, rfl, rfl⟩

/-- SET_VOLUME (R191). -/
theorem TableRow.setVolume (c : CodecId) (ch : Channel) : TableRow.Statement (.setVolume c ch) := by
  cases c <;> cases ch <;> exact ⟨_, rfl, rfl⟩

/-- GET_VOLUME (R192). -/
theorem TableRow.getVolume (c : CodecId) (ch : Channel) : TableRow.Statement (.getVolume c ch) := by
  cases c <;> cases ch <;> exact ⟨_, rfl, rfl⟩

/-- READ_SYNCED (R193). -/
theorem TableRow.readSynced (cs : CodecSet) (d : Control) : TableRow.Statement (.readSynced cs d) := by
  cases cs <;> cases d <;> exact ⟨_, rfl, rfl⟩

/-- WRITE_SYNCED (R194). -/
theorem TableRow.writeSynced (cs : CodecSet) (d : Control) : TableRow.Statement (.writeSynced cs d) := by
  cases cs <;> cases d <;> exact ⟨_, rfl, rfl⟩

end Sys2Proof.Laws
end

