-- ==== Sys2Proof/Tests/Slice0.lean ====
section
/-! SUPPORT. The model's own tests: ill-formed commands refused, words written out bit by bit, one step per command
with the values of spec/95_test_vectors.md, and a witness for the hypotheses of every statement. -/
namespace Sys2Proof.Tests
open Sys2Proof.Machine

/-! ## WellFormed: a command that names an absent codec is refused (R99, vector of 0x00000810) -/

theorem test_absent_codec_apply_startup : (Instr.applyStartup .r).wellFormed .one = false := by decide
theorem test_absent_codec_set_fmt_sysclk : (Instr.setFmtSysclk .lr).wellFormed .one = false := by decide
theorem test_absent_codec_power_up : (Instr.powerUp .lr).wellFormed .one = false := by decide
theorem test_absent_codec_power_down : (Instr.powerDown .r).wellFormed .one = false := by decide
theorem test_absent_codec_set_volume : (Instr.setVolume .right .ch0).wellFormed .one = false := by decide
theorem test_absent_codec_get_volume : (Instr.getVolume .right .ch1).wellFormed .one = false := by decide
theorem test_absent_codec_read_synced : (Instr.readSynced .lr .dither).wellFormed .one = false := by decide
theorem test_absent_codec_write_synced : (Instr.writeSynced .r .filter).wellFormed .one = false := by decide
theorem test_left_codec_is_present : (Instr.setVolume .left .ch1).wellFormed .one = true := by decide
theorem test_absent_codec_word : decode .one 0x00000810 = .error .absentCodec := by decide

/-! ## Decode: words written out from R91 to R98 (RSV, DESC, CH, CSET, GRP, OPC) -/

theorem test_decode_prepare_all : decode .two 0b0000000000000000_000_0_00_01_00000001 = .ok (.prepareAll .lrclk) := by
  decide
theorem test_decode_enable_all : decode .two 0b0000000000000000_000_0_00_10_00000010 = .ok (.enableAll .both) := by
  decide
theorem test_decode_disable_all : decode .two 0b0000000000000000_000_0_00_10_00000011 = .ok (.disableAll .both) := by
  decide
theorem test_decode_unprepare_all :
    decode .two 0b0000000000000000_000_0_00_00_00000100 = .ok (.unprepareAll .bclk) := by decide
theorem test_decode_select_master : decode .two 0b0000000000000000_000_0_00_00_00000101 = .ok .selectMaster := by
  decide
theorem test_decode_release_master : decode .two 0b0000000000000000_000_0_00_00_00000110 = .ok .releaseMaster := by
  decide
theorem test_decode_apply_startup :
    decode .two 0b0000000000000000_000_0_10_00_00010000 = .ok (.applyStartup .r) := by decide
theorem test_decode_set_fmt_sysclk :
    decode .two 0b0000000000000000_000_0_11_00_00010001 = .ok (.setFmtSysclk .lr) := by decide
theorem test_decode_power_up : decode .one 0b0000000000000000_000_0_01_00_00010010 = .ok (.powerUp .l) := by decide
theorem test_decode_power_down : decode .two 0b0000000000000000_000_0_11_00_00010011 = .ok (.powerDown .lr) := by
  decide
theorem test_decode_set_volume :
    decode .two 0b0000000000000000_000_1_10_00_00010100 = .ok (.setVolume .right .ch1) := by decide
theorem test_decode_get_volume :
    decode .two 0b0000000000000000_000_0_10_00_00010101 = .ok (.getVolume .right .ch0) := by decide
theorem test_decode_read_synced :
    decode .two 0b0000000000000000_010_0_11_00_00010110 = .ok (.readSynced .lr .filter) := by decide
theorem test_decode_write_synced :
    decode .two 0b0000000000000000_001_0_11_00_00010111 = .ok (.writeSynced .lr .dither) := by decide
theorem test_decode_desc_on_set_volume : decode .two 0x00002414 = .error .unusedFieldSet := by decide
theorem test_decode_ch_on_read_synced : decode .two 0x00001C16 = .error .unusedFieldSet := by decide
theorem test_decode_opcode_above_the_map : decode .two 0x00000018 = .error .unassignedOpcode := by decide
theorem test_decode_two_codecs_on_get_volume : decode .two 0x00001C15 = .error .notOneCodec := by decide
theorem test_decode_reserved_desc : decode .two 0x00006C16 = .error .reservedControl := by decide

/-! ## Small states -/

/-- An answer. -/
def answer (ok : Bool) (value extraMs : Nat) : Answer := { ok := ok, value := value, taken := false, extraMs := extraMs }

/-- Answered `ok`. -/
def yes : Option Answer := some (answer true 0 0)

/-- Answered `fail`. -/
def no : Option Answer := some (answer false 0 0)

/-- The instance right after reset with the command i just issued, its operands and the coming answers. -/
def issued (i : Instr) (a0 a1 : Word) (answers : List (Option Answer)) : State :=
  { (State.reset.onWin fun w => { w with arg0 := a0, arg1 := a1 }).issue (encode i) with
    env := { answers := answers, turns := [], tick := 0 } }

/-- A position in a command's body. -/
def bodyPos (elem req : Nat) (up : Bool) (vals : List Nat) : Position :=
  { phase := .body, elem := elem, req := req, up := up, vals := vals, first := none }

/-- An iteration of a command's guard loops. -/
def guardPos (elem : Nat) : Position := { Position.start with phase := .guards, elem := elem }

/-- The same state with the engine at position p. -/
def State.at (s : State) (p : Position) : State := { s with eng := { s.eng with step := some p } }

/-- All consumer clocks prepared, and enabled or not. -/
def clocksSet (enabled : Bool) (c : ClockState) : ClockState :=
  let x : Lifecycle := ⟨true, enabled⟩
  { c with bclkHost := x, bclkL := x, bclkR := x, lrclkHost := x, lrclkL := x, lrclkR := x }

/-- A codec with this power state and format-control register, and a 44.1 kHz family rate if valid. -/
def codecAs (pd : Power) (fmtctl : Nat) (valid : Bool) : CodecState :=
  { pd := pd, sysclk := if valid then 22579200 else 0, sysclkValid := valid, shadow := [(5, some fmtctl)] }

/-- What a step leaves, seen through f; nothing where it does not answer a next state. -/
def seen {α : Type} (f : State → α) : Host.Outcome State Fault Refusal → Option α
  | .next t => some (f t)
  | .fault _ => none
  | .refused _ => none

/-! ## One step per command, with the values of spec/95_test_vectors.md -/

/-- V-C3: the failing `prepare(3)`. -/
theorem test_prepare_all_names_the_failing_clock :
    seen (fun t => (t.statusWord, t.clk.lrclkHost, t.history))
      (exec (.prepareAll .both) (State.at (issued (.prepareAll .both) 0 0 [no]) (bodyPos 3 0 false []))) =
    some (0x00000310, ⟨false, false⟩, [.clkReq .prepare (.consumer .lrclkHost) false]) := by decide

/-- V-C1: the first prepare of the bit-clock group. -/
theorem test_prepare_all_prepares_in_start_order :
    seen (fun t => (t.statusWord, t.clkstateWord))
      (exec (.prepareAll .bclk) (State.at (issued (.prepareAll .bclk) 0 0 [yes]) (bodyPos 0 0 false []))) =
    some (0x80000000, 0x00300001) := by decide

/-- V-C7: no codec has its sysclk. -/
theorem test_enable_all_names_the_codec_without_sysclk :
    seen (fun t => (t.statusWord, t.clkstateWord, t.history))
      (exec (.enableAll .both)
        (State.at ((issued (.enableAll .both) 0 0 [yes]).onClk (clocksSet false)) (guardPos 0))) =
    some (0x00010003, 0x0030003F, []) := by decide

/-- V-C8: sysclk set, nothing prepared; the clocks are checked after the two codecs. -/
theorem test_enable_all_names_the_unprepared_clock :
    seen (fun t => (t.statusWord, t.clkstateWord))
      (exec (.enableAll .bclk)
        (State.at
          { issued (.enableAll .bclk) 0 0 [yes] with
            left := codecAs .down 0x082 true, right := codecAs .down 0x082 true }
          (guardPos 2))) =
    some (0x00060003, 0x00300000) := by decide

/-- V-C11: `disable(4)` answered `fail` counts as done and is recorded. -/
theorem test_disable_all_records_a_failed_request :
    seen (fun t => (t.clkstateWord, t.flagsWord, t.history))
      (exec (.disableAll .both)
        (State.at ((issued (.disableAll .both) 0 0 [no]).onClk (clocksSet true)) (bodyPos 1 0 false []))) =
    some (0x00302F3F, 2, [.clkReq .disable (.consumer .lrclkL) false]) := by decide

/-- V-C34: with a codec up the first disable is a glitch risk. -/
theorem test_disable_all_flags_a_glitch :
    seen (fun t => (t.clkstateWord, t.flagsWord))
      (exec (.disableAll .both)
        (State.at ((issued (.disableAll .both) 0 0 [yes]).onClk (clocksSet true)) (bodyPos 0 0 true []))) =
    some (0x00301F3F, 1) := by decide

/-- V-C13: the reverse list starts at clock 5. -/
theorem test_unprepare_all_names_the_enabled_clock :
    seen State.statusWord
      (exec (.unprepareAll .both)
        (State.at ((issued (.unprepareAll .both) 0 0 []).onClk (clocksSet true)) (guardPos 0))) =
    some 0x00070503 := by decide

/-- V-C16: the first unprepare of the frame clocks. -/
theorem test_unprepare_all_starts_at_the_end :
    seen (fun t => (t.clkstateWord, t.history))
      (exec (.unprepareAll .lrclk)
        (State.at ((issued (.unprepareAll .lrclk) 0 0 [yes]).onClk (clocksSet false)) (bodyPos 0 0 false []))) =
    some (0x0030001F, [.clkReq .unprepare (.consumer .lrclkR) true]) := by decide

/-- V-C20: the enable of the gate starts the settle wait. -/
theorem test_select_master_settles :
    seen (fun t => (t.statusWord, t.clkstateWord, t.history))
      (exec .selectMaster
        (State.at
          ((issued .selectMaster 22579200 0 [yes]).onClk fun c =>
            { c with muxSel := some .src44k1, gatePrepared := true })
          (bodyPos 0 2 false []))) =
    some (0x80000000, 0x000B0000, [.clkReq .enable .gate true, .settleStart 0]) := by decide

/-- V-C26: the mux request answered `fail`. -/
theorem test_select_master_mux_failure :
    seen (fun t => (t.statusWord, t.clkstateWord, t.history))
      (exec .selectMaster (State.at (issued .selectMaster 22579200 0 [no]) (bodyPos 0 0 false []))) =
    some (0x00000712, 0x00300000, [.clkReq (.setParentSource 0) .mux false]) := by decide

/-- V-C30: the gate prepared but not enabled. -/
theorem test_release_master_unprepares_the_gate :
    seen (fun t => (t.statusWord, t.clkstateWord, t.history))
      (exec .releaseMaster
        (State.at
          ((issued .releaseMaster 0 0 [yes]).onClk fun c => { c with muxSel := some .src44k1, gatePrepared := true })
          (bodyPos 0 1 false []))) =
    some (0, 0, [.clkReq .unprepare .gate true]) := by decide

/-- V-S2: the fourth write of the batch answered `fail`. -/
theorem test_apply_startup_stops_at_a_failed_write :
    seen (fun t => (t.statusWord, t.codecstateWord, t.shadow .left 3, t.history))
      (exec (.applyStartup .lr) (State.at (issued (.applyStartup .lr) 0 0 [no]) (bodyPos 0 4 false []))) =
    some (0x00030020, 0x00000808, none, [.memWrite .left 3 0x020 false]) := by decide

/-- V-S5: a codec that is up. -/
theorem test_apply_startup_refuses_a_codec_that_is_up :
    seen State.statusWord
      (exec (.applyStartup .l)
        (State.at { issued (.applyStartup .l) 0 0 [yes] with left := codecAs .up 0x002 true } (guardPos 0))) =
    some 0x00090003 := by decide

/-- V-S6: the second write ends the command. -/
theorem test_set_fmt_sysclk_writes_the_format :
    seen (fun t => (t.statusWord, t.codecstateWord, t.sysclkWord .right, t.history))
      (exec (.setFmtSysclk .lr)
        (State.at
          { issued (.setFmtSysclk .lr) 22579200 2 [yes] with
            left := codecAs .down 0x082 true, right := codecAs .down 0x080 false }
          (bodyPos 1 0 false []))) =
    some (0, 0x00000D0D, 22579200, [.memWrite .right 5 0x082 true]) := by decide

/-- V-S10: bit 6 is outside FMT_MASK. -/
theorem test_set_fmt_sysclk_refuses_a_format_code :
    seen State.statusWord (exec (.setFmtSysclk .lr) (issued (.setFmtSysclk .lr) 22579200 0x040 [yes])) =
    some 0x00000002 := by decide

/-- V-S14: the power-down bit of the second codec is cleared. -/
theorem test_power_up_clears_the_power_down_bit :
    seen (fun t => (t.statusWord, t.codecstateWord, t.history))
      (exec (.powerUp .lr)
        (State.at
          { issued (.powerUp .lr) 0 0 [yes] with
            left := codecAs .up 0x002 true, right := codecAs .down 0x082 true }
          (bodyPos 1 0 false []))) =
    some (0, 0x00000E0E, [.memWrite .right 5 0x002 true]) := by decide

/-- V-S15: the master clock is not ready. -/
theorem test_power_up_needs_the_master :
    seen State.statusWord (exec (.powerUp .lr) (issued (.powerUp .lr) 0 0 [yes])) = some 0x00020603 := by decide

/-- V-S19b: the failure of the left codec is reported after the right one. -/
theorem test_power_down_reports_the_first_failure :
    seen (fun t => (t.statusWord, t.codecstateWord, t.history))
      (exec (.powerDown .lr)
        (State.at
          { issued (.powerDown .lr) 0 0 [yes] with
            left := { CodecState.reset with shadow := [(5, none)] }, right := codecAs .up 0x002 true }
          { bodyPos 1 0 false [] with first := some .left })) =
    some (0x00050020, 0x00000908, [.memWrite .right 5 0x082 true]) := by decide

/-- V-S19a: an unknown shadow, so the base is STARTUP_FMTCTL. -/
theorem test_power_down_of_an_unknown_register :
    seen (fun t => (t.statusWord, t.history))
      (exec (.powerDown .r)
        (State.at
          { issued (.powerDown .r) 0 0 [yes] with right := { CodecState.reset with shadow := [(5, none)] } }
          (bodyPos 0 0 false []))) =
    some (0, [.memWrite .right 5 0x080 true]) := by decide

/-- V-S20: the LSB write of 500, inverted. -/
theorem test_set_volume_writes_the_lsb_first :
    seen (fun t => (t.statusWord, t.history))
      (exec (.setVolume .left .ch0) (State.at (issued (.setVolume .left .ch0) 500 0 [yes]) (bodyPos 0 0 false []))) =
    some (0x80000000, [.memWrite .left 0 0x00B true]) := by decide

/-- V-S20: the MSB write has the latch bit. -/
theorem test_set_volume_writes_the_latched_msb :
    seen (fun t => (t.statusWord, t.history))
      (exec (.setVolume .left .ch0) (State.at (issued (.setVolume .left .ch0) 500 0 [yes]) (bodyPos 0 1 false []))) =
    some (0, [.memWrite .left 1 0x030 true]) := by decide

/-- Section 2.5: decode ignores the bits outside the fields. -/
theorem test_get_volume_ignores_other_bits :
    seen (fun t => (t.statusWord, t.win.data))
      (exec (.getVolume .left .ch0)
        (State.at (issued (.getVolume .left .ch0) 0 0 [some (answer true 0x1F0 0)]) (bodyPos 0 1 false [0x1EB]))) =
    some (0, 500) := by decide

/-- V-S31: the codecs differ. -/
theorem test_read_synced_finds_a_difference :
    seen (fun t => (t.statusWord, t.win.data))
      (exec (.readSynced .lr .filter)
        (State.at (issued (.readSynced .lr .filter) 0 0 []) (bodyPos 2 0 false [3, 1]))) =
    some (0x00060122, 0) := by decide

/-- V-S32: only the field is compared: the second read keeps it, and the comparison after it ends OK. -/
theorem test_read_synced_compares_the_field :
    seen (fun t => (t.statusWord, t.position.vals))
      (exec (.readSynced .lr .filter)
        (State.at (issued (.readSynced .lr .filter) 0 0 [some (answer true 0x1F3 0)]) (bodyPos 1 0 false [3]))) =
      some (0x80000000, [3, 3]) ∧
    seen (fun t => (t.statusWord, t.win.data))
      (exec (.readSynced .lr .filter)
        (State.at (issued (.readSynced .lr .filter) 0 0 []) (bodyPos 2 0 false [3, 3]))) =
      some (0, 3) := by decide

/-- V-S36: the other control's bits of the register are kept. -/
theorem test_write_synced_keeps_the_other_field :
    seen (fun t => (t.statusWord, t.history))
      (exec (.writeSynced .lr .anticlip)
        (State.at
          { issued (.writeSynced .lr .anticlip) 1 0 [yes] with
            right := { CodecState.reset with shadow := [(8, some 4)] } }
          (bodyPos 1 0 false []))) =
    some (0, [.memWrite .right 8 0x005 true]) := by decide

/-- V-S43: an unknown shadow. -/
theorem test_write_synced_of_an_unknown_register :
    seen (fun t => (t.statusWord, t.history))
      (exec (.writeSynced .lr .anticlip)
        (State.at
          { issued (.writeSynced .lr .anticlip) 1 0 [yes] with
            right := { CodecState.reset with shadow := [(8, none)] } }
          (bodyPos 1 0 false []))) =
    some (0x00080104, []) := by decide

/-! ## The window, the host and reset -/

/-- V-H1: the readback registers after reset. -/
theorem test_reset_readback :
    (State.reset.readWindow .clkstate, State.reset.readWindow .codecstate) = (0x00300000, 0x00000808) := by decide

/-- V-H8: writing 1 to FLAGS clears bit 0 only. -/
theorem test_flags_clear_by_one :
    ((State.reset.onWin fun w => { w with glitchRisk := true, teardownFault := true }).writeWindow .flags 1).flagsWord =
      2 := by decide

/-- The placed word runs at the next step: V-C24 by a step of the whole machine. -/
theorem test_step_runs_the_placed_word :
    seen State.statusWord (step (State.reset.withFetchWord 32 0x00000005)) = some 0x00000014 := by decide

/-- V-R15: the illegal reset word. -/
theorem test_step_ends_an_illegal_word :
    seen State.statusWord (step (State.reset.withFetchWord 32 0)) = some 0x00000001 := by decide

/-- The reference parameters meet R7. -/
theorem test_reference_parameters_are_legal : configOk Config.reference = true := by decide

/-- Section 2.8, (44100, 16) and (22050, 20); the host side of the format by R227. -/
theorem test_negotiate :
    negotiate Config.reference 44100 16 =
      .ok
        { masterHz := 22579200, bitClockHz := 1411200, frameClockHz := 44100, fmtCode := 2, codecRole := .slave
          hostFormat :=
            { serial := .i2sTwoChannel, bitClock := .master, frameClock := .master, edges := .forWidth16 } } ∧
    (hostFormat 24).edges = (hostFormat 32).edges ∧ (hostFormat 24).edges ≠ (hostFormat 16).edges ∧
    negotiate Config.reference 22050 20 = .error .unsupportedFormat := by decide

/-- R235's values, and line 4 of program P3 of 95_test_vectors.md (WRITE_SYNCED lr, dither, 2). -/
theorem test_control_settings :
    [.anticlip .off, .anticlip .on].map settingValue = [0, 1] ∧
    [.dither .off, .dither .rpdf, .dither .tpdf, .dither .hpdf].map settingValue = [0, 1, 2, 3] ∧
    ([0, 1, 2, 3, 4].map fun v => settingValue (.filter v)) = [0, 1, 2, 3, 4] ∧
    controlSetTo Config.reference (.dither .tpdf) = .writeSynced .lr .dither 2 := by decide

/-- A detach with no instance attached (R282, log 14). -/
theorem test_detach_without_an_instance_is_refused :
    State.reset.detached.hostAct .detach [] = .refused .noInstance := rfl

/-! ## What the witnesses are built from -/

/-- A register file of known small values is a sound shadow under the reference parameters. -/
theorem shadow_sound_of {s : State} {c : CodecId} (hcfg : s.cfg = Config.reference)
    (hwf : Memory.wf (shadowDefault Config.reference) (s.codec c).shadow)
    (hv : ∀ x ∈ (s.codec c).shadow, x.2 ∈ [none, some 0x080, some 0x082, some 0x002]) : shadowSound s c := by
  refine ⟨hcfg ▸ hwf, fun a v h => ?_⟩
  rw [hcfg]
  show v < 512
  unfold State.shadow at h
  rw [hcfg] at h
  clear hwf
  generalize (s.codec c).shadow = m at h hv
  induction m with
  | nil => simp [Memory.read, shadowDefault, resetDefault, Config.reference] at h; omega
  | cons x rest ih =>
    obtain ⟨k, w⟩ := x
    by_cases hk : k = a
    · have hw : w = some v := by simpa [Memory.read, hk] using h
      have := hv (k, w) (by simp)
      subst hw
      simp at this
      omega
    · exact ih (by simpa [Memory.read, hk] using h) fun y hy => hv y (by simp [hy])

/-- The invariant of a running state with no settle wait, under the reference parameters. -/
theorem inv_of_running {s : State} {i : Instr} {p : Position} (hcfg : s.cfg = Config.reference)
    (hrun : s.runs i) (hstep : s.eng.step = some p) (hwin : s.win.cmd = s.eng.cur.cmd) (hatt : s.attached = true)
    (hclk : ∀ k, s.clk.enabled k = true → s.clk.prepared k = true)
    (hgate : s.clk.gateEnabled = true → s.clk.gatePrepared = true) (hmaster : masterSettled s)
    (hsettle : s.clk.settlePending = false) (hsys : ∀ c, sysclkSound (s.codec c))
    (hpow : ∀ c, powerMatchesShadow s c) (hshadow : ∀ c, shadowSound s c) (href : ∀ c, refSound s c)
    (hbody : p.phase = .body → bodySound s p i)
    (hguards : p.phase = .guards → guardsSound s p i := by exact fun h => nomatch (show Phase.body = .guards from h)) :
    Inv s where
  ordered := ⟨hclk, hgate⟩
  master := hmaster
  settle := fun h => by simp [hsettle] at h
  sysclk := hsys
  absent := by
    constructor
    · intro k h; rw [hcfg] at h; cases k <;> exact absurd h (by decide)
    · intro c h; rw [hcfg] at h; cases c <;> exact absurd h (by decide)
  power := hpow
  shadow := hshadow
  ref := href
  engine := ⟨by simp [hrun.1, hstep], hwin, fun h => by simp [hatt] at h⟩
  position := by
    intro j q hj hq
    obtain rfl : q = p := by rw [hstep] at hq; exact (Option.some.inj hq).symm
    obtain rfl : j = i := by have := hj.2; rw [hrun.2] at this; exact (Except.ok.inj this).symm
    exact ⟨hbody, hguards⟩
  start := fun _ _ _ => hsettle

/-- A codec whose power state agrees with its format-control register meets its invariants. -/
theorem codec_as_sound {s : State} {c : CodecId} {pd : Power} {v : Nat} {valid : Bool}
    (hcfg : s.cfg = Config.reference) (hc : s.codec c = codecAs pd v valid)
    (hv : (pd = .down ∧ (v = 0x080 ∨ v = 0x082)) ∨ (pd = .up ∧ v = 0x002)) :
    sysclkSound (s.codec c) ∧ powerMatchesShadow s c ∧ shadowSound s c := by
  have hsh : s.shadow c s.cfg.addrFmtctl = some v := by
    simp [State.shadow, hc, codecAs, hcfg, Memory.read, Config.reference]
  refine ⟨?_, ?_, shadow_sound_of hcfg ?_ ?_⟩
  · rw [hc]
    rcases hv with ⟨rfl, rfl | rfl⟩ | ⟨rfl, rfl⟩ <;> cases valid <;> exact ⟨by decide, by decide⟩
  · unfold powerMatchesShadow
    rw [hsh, hc, hcfg]
    rcases hv with ⟨rfl, rfl | rfl⟩ | ⟨rfl, rfl⟩ <;> cases valid <;>
      exact ⟨fun h => ⟨_, rfl, by first | decide | exact absurd h (by decide)⟩,
        fun h => ⟨_, rfl, by first | decide | exact absurd h (by decide)⟩⟩
  · rw [hc]; rcases hv with ⟨rfl, rfl | rfl⟩ | ⟨rfl, rfl⟩ <;> cases valid <;> decide
  · rw [hc]; rcases hv with ⟨rfl, rfl | rfl⟩ | ⟨rfl, rfl⟩ <;> cases valid <;> decide

/-- A codec at its reset values meets its invariants. -/
theorem reset_codec_sound {s : State} {c : CodecId} (hcfg : s.cfg = Config.reference)
    (hc : s.codec c = CodecState.reset) :
    sysclkSound (s.codec c) ∧ powerMatchesShadow s c ∧ shadowSound s c := by
  refine ⟨by rw [hc]; exact ⟨by decide, by decide⟩, ?_, shadow_sound_of hcfg (by rw [hc]; decide) (by rw [hc]; decide)⟩
  unfold powerMatchesShadow
  rw [hc]
  exact ⟨fun h => absurd h (by decide), fun h => absurd h (by decide)⟩

/-- The command i issued right after reset, at its first element, with this answer at hand. -/
def atFirst (i : Instr) (a0 a1 : Word) (d : Option Answer) : State := State.at (issued i a0 a1 [d]) (bodyPos 0 0 false [])

/-- A host that has these actions left to take, after reset. -/
def withHost (l : List HostAction) : State := { State.reset with host := { State.reset.host with actions := l } }

/-- The binding of a platform with every clock and both codecs. -/
def wholeBinding : Binding where
  handles := [.consumer .bclkHost, .consumer .bclkL, .consumer .bclkR, .consumer .lrclkHost, .consumer .lrclkL,
    .consumer .lrclkR, .gate, .mux]
  codecs  := [.left, .right]

/-! ## The host's own requests and reports -/

/-- R230's example: an oscillator of 22579200 Hz gives a PLL rate of 699955200 and a multiplier-stage rate of
2822400. -/
theorem test_topology_rates :
    (seen (fun t => t.host.requests) <| State.hostStep
      { withHost [.scaleRate .pll 31 1] with
        host := { (withHost [.scaleRate .pll 31 1]).host with oscillatorHz := some 22579200 }
        env := { answers := [yes], turns := [], tick := 0 } }) = some [.setRate .pll 699955200 true] ∧
    (seen (fun t => t.host.requests) <| State.hostStep
      { withHost [.scaleRate .multiplier 1 8] with
        host := { (withHost [.scaleRate .multiplier 1 8]).host with oscillatorHz := some 22579200 }
        env := { answers := [yes], turns := [], tick := 0 } }) = some [.setRate .multiplier 2822400 true] := by
  decide

/-- R232: the report of a failed command is its STATUS, taken before a later command changes it (V-C3's word). -/
theorem test_report_holds_the_status :
    seen (fun t => (t.host.actions, t.host.failed))
      (State.hostAct { State.reset with host := { HostAgent.reset with lastFailure := some (.status 0x00000310) } }
        (.failUnlessOk .clocks 1) [.session .streaming, .wait]) =
    some ([.wait], some { stage := .clocks, report := .status 0x00000310 }) := by decide

/-- R223, R234: a failed negotiation is reported and leaves the session Closed. -/
theorem test_failed_negotiation_is_reported :
    seen (fun t => (t.host.session, t.host.failed))
      (State.hostAct State.reset (.fail .negotiate .unsupportedSampleRate) []) =
    some (.closed, some { stage := .negotiate, report := .hostError .unsupportedSampleRate }) := by decide

/-- R231: a refused rate request is a RateSetError with the clock. -/
theorem test_refused_rate_names_the_clock :
    seen (fun t => t.host.lastFailure)
      (State.hostAct { State.reset with env := { answers := [no], turns := [], tick := 0 } }
        (.setRate (.clock .lrclkL) 44100) []) =
    some (some (.hostError (.rateSetError (.clock .lrclkL)))) := by decide

/-- R283: a missing clock handle and a codec that cannot be bound. -/
theorem test_attach_needs_its_binding :
    bindingOk Config.reference wholeBinding = true ∧
    bindingOk Config.reference { wholeBinding with handles := wholeBinding.handles.erase .mux } = false ∧
    bindingOk Config.reference { wholeBinding with codecs := [.left] } = false ∧
    bindingOk { Config.reference with numCodecs := .one } { wholeBinding with codecs := [.left] } = true := by decide

/-- R61, R74: under the reference codec model a read answers its register, whatever the draw says. -/
theorem test_reference_read_answers_the_register :
    seen (fun t => (t.statusWord, t.history))
      (exec (.getVolume .left .ch0)
        { State.at (issued (.getVolume .left .ch0) 0 0 [no]) (bodyPos 0 0 false []) with
          ref := { plugged := true, left := { RefCodec.reset Config.reference with reg := [(0, 0x00B)] },
                   right := RefCodec.reset Config.reference } }) =
    some (0x80000000, [.memRead .left 0 (some 0x00B)]) := by decide

/-- After reset with both codecs as given. -/
def withCodecs (s : State) (x y : CodecState) : State := { s with left := x, right := y }

/-! ## Witnesses for the hypotheses: window, host, reset -/

theorem witness_illegal_word : ∃ s e, State.command s = .error e :=
  ⟨State.reset.issue 0, .unassignedOpcode, by decide⟩

theorem witness_step_runs :
    (∃ (s : State) (i : Instr), s.attached = true ∧ configOk s.cfg = true ∧ s.runs i ∧ s.pickTurn.1 = false) ∧
    ∃ (s : State) (i : Instr), configOk s.cfg = true ∧ decode s.cfg.numCodecs (tableWord 32 5) = .ok i :=
  ⟨⟨issued .releaseMaster 0 0 [], .releaseMaster, rfl, by decide, ⟨rfl, by decide⟩, by decide⟩,
    ⟨State.reset, .selectMaster, by decide, by decide⟩⟩

theorem witness_idle_cmd_write :
    (∃ (s : State) (w : Word) (rest : List HostAction),
      s.attached = true ∧ configOk s.cfg = true ∧ s.eng.busy = false ∧ s.held = none ∧
      s.host.actions = .write s.cfg.windowBase 32 w :: rest) ∧
    (∃ s t : State, exec .selectMaster s = .next t ∧ s.eng.cur.arg0 ≠ s.win.arg0) ∧
    ∀ off ∈ [0x04, 0x08], ∃ (s : State) (v : Word) (rest : List HostAction),
      s.attached = true ∧ configOk s.cfg = true ∧ s.eng.busy = false ∧ s.held = none ∧
      s.host.actions = .write (s.cfg.windowBase + off) 32 v :: rest := by
  refine ⟨⟨withHost [.write 0 32 0x201], 0x201, [], rfl, by decide, rfl, rfl, rfl⟩,
    ⟨(issued .selectMaster 24576000 0 []).onWin fun w => { w with arg0 := 0 }, _, rfl, by decide⟩,
    fun off _ => ⟨withHost [.write off 32 1], 1, [], rfl, by show configOk Config.reference = true; decide, rfl, rfl, ?_⟩⟩
  show _ = HostAction.write (0 + off) 32 1 :: []
  rw [Nat.zero_add]; rfl

theorem witness_busy_writes :
    (∀ p ∈ [(0x00, WindowReg.cmd), (0x24, WindowReg.flags)], ∃ (s : State) (v : Word) (rest : List HostAction),
      s.attached = true ∧ s.eng.busy = true ∧ s.held = none ∧
      s.host.actions = .write (s.cfg.windowBase + p.1) 32 v :: rest) ∧
    (∃ (s : State) (h : HeldWrite), s.held = some h ∧ s.eng.busy = true) ∧
    (∃ (s : State) (h : HeldWrite), (0x24, h.reg) ∈ [(0x00, WindowReg.cmd), (0x04, .arg0), (0x08, .arg1), (0x24, .flags)] ∧
      s.attached = true ∧ s.held = some h ∧ s.eng.busy = false) ∧
    ∃ (s : State) (r : WindowReg) (rest : List HostAction), windowReg 0x3C = some r ∧ s.attached = true ∧
      s.held = none ∧ s.host.actions = .read (s.cfg.windowBase + 0x3C) 32 :: rest := by
  refine ⟨fun p _ => ⟨(withHost [.write p.1 32 1]).issue 5, 1, [], rfl, rfl, rfl, ?_⟩,
    ⟨{ State.reset.issue 5 with held := some ⟨.arg0, 5⟩ }, _, rfl, rfl⟩,
    ⟨{ State.reset with held := some ⟨.flags, 1⟩ }, _, by decide, rfl, rfl, rfl⟩,
    ⟨withHost [.read 0x3C 32], .reserved, [], by decide, rfl, rfl, rfl⟩⟩
  show _ = HostAction.write (0 + p.1) 32 1 :: []
  rw [Nat.zero_add]; rfl

theorem witness_undefined_access :
    (∃ (s : State) (rest : List HostAction), s.attached = true ∧ s.held = none ∧
      s.host.actions = .read 63 32 :: rest) ∧
    ∃ (s : State) (rest : List HostAction), s.attached = true ∧ s.held = none ∧
      s.host.actions = .write 64 32 0 :: rest :=
  ⟨⟨withHost [.read 63 32], [], rfl, rfl, rfl⟩, ⟨withHost [.write 64 32 0], [], rfl, rfl, rfl⟩⟩

theorem witness_read_only_write :
    (∃ (s : State) (v : Word) (rest : List HostAction), s.attached = true ∧ s.held = none ∧
      s.host.actions = .write (s.cfg.windowBase + 0x0C) 32 v :: rest) ∧
    ∃ (s : State) (v : Word) (rest : List HostAction), s.attached = true ∧ s.held = none ∧
      s.host.actions = .write (s.cfg.windowBase + 0x3C) 32 v :: rest :=
  ⟨⟨withHost [.write 0x0C 32 1], 1, [], rfl, rfl, rfl⟩, ⟨withHost [.write 0x3C 32 1], 1, [], rfl, rfl, rfl⟩⟩

theorem witness_sticky_flags :
    (∃ (i : Instr) (s t : State), exec i s = .next t ∧ s.win.glitchRisk = true ∧ s.win.teardownFault = true) ∧
    ∃ (s : State) (v : Word) (rest : List HostAction), s.attached = true ∧ s.eng.busy = false ∧ s.held = none ∧
      s.host.actions = .write (s.cfg.windowBase + 0x24) 32 v :: rest :=
  ⟨⟨.releaseMaster, (issued .releaseMaster 0 0 []).onWin fun w => { w with glitchRisk := true, teardownFault := true },
      _, rfl, rfl, rfl⟩,
    ⟨withHost [.write 0x24 32 3], 3, [], rfl, rfl, rfl, rfl⟩⟩

/-- Both flags set. -/
def flagged (s : State) : State := s.onWin fun w => { w with glitchRisk := true, teardownFault := true }

/-- A step clears both flags by a write, by a held write and by a detach. -/
theorem witness_flags_cleared : ∀ s ∈ [flagged (withHost [.write 0x24 32 3]),
      { flagged State.reset with held := some { reg := .flags, value := 3 } }, flagged (withHost [.detach])],
    ∃ t, step s = .next t ∧ s.win.glitchRisk = true ∧ t.win.glitchRisk = false ∧
      s.win.teardownFault = true ∧ t.win.teardownFault = false := by
  intro s hs
  simp only [List.mem_cons, List.not_mem_nil, or_false] at hs
  rcases hs with rfl | rfl | rfl <;> exact ⟨_, rfl, rfl, rfl, rfl, rfl⟩

theorem witness_readback :
    present Config.reference .right = true ∧ present { Config.reference with numCodecs := .one } .right = false := by
  decide

theorem witness_parameters : ∃ cfg, configOk cfg = true := ⟨Config.reference, by decide⟩

/-- A detached block whose host is about to attach. -/
def attaching (cfg : Config) (b : Binding) : State := { withHost [.attach cfg b] with attached := false }

theorem witness_attach :
    (∃ (s : State) (cfg : Config) (b : Binding) (rest : List HostAction), s.attached = false ∧ s.held = none ∧
      s.host.actions = .attach cfg b :: rest ∧ configOk cfg = false) ∧
    (∃ (s : State) (cfg : Config) (b : Binding) (rest : List HostAction), s.attached = false ∧ s.held = none ∧
      s.host.actions = .attach cfg b :: rest ∧ configOk cfg = true ∧ Clock.mux ∉ b.handles) ∧
    (∃ (s t : State) (cfg : Config) (b : Binding) (rest : List HostAction), s.attached = false ∧ s.held = none ∧
      s.host.actions = .attach cfg b :: rest ∧ configOk cfg = true ∧
      (∀ k, clockPresent cfg k = true → Clock.consumer k ∈ b.handles) ∧ Clock.gate ∈ b.handles ∧
      Clock.mux ∈ b.handles ∧ (∀ c, present cfg c = true → c ∈ b.codecs) ∧ step s = .next t) ∧
    ∀ busy, ∃ (s : State) (rest : List HostAction), s.attached = true ∧ configOk s.cfg = true ∧ s.held = none ∧
      s.host.actions = .detach :: rest ∧ s.eng.busy = busy :=
  ⟨⟨attaching { Config.reference with volLsbBits := 10 } wholeBinding, _, _, [], rfl, rfl, rfl, by decide⟩,
    ⟨attaching Config.reference { wholeBinding with handles := [] }, _, _, [], rfl, rfl, rfl, by decide, by decide⟩,
    ⟨attaching Config.reference wholeBinding, _, Config.reference, wholeBinding, [], rfl, rfl, rfl, by decide,
      by intro k _; cases k <;> decide, by decide, by decide, by intro c _; cases c <;> decide, rfl⟩,
    fun busy => ⟨{ withHost [.detach] with eng := { Engine.reset with busy := busy } }, [], rfl,
      by show configOk Config.reference = true; decide, rfl, rfl, rfl⟩⟩

/-! ## Witnesses: the group and master commands -/

theorem witness_prepare_all :
    State.atStart (issued (.prepareAll .both) 0 0 []) ∧
    (∃ (s : State) (p : Position) (k : Consumer), s.inBody p ∧ (groupList s.cfg .both)[p.elem]? = some k ∧
      s.clk.prepared k = true) ∧
    ∃ (s : State) (p : Position) (k : Consumer) (d : Answer), s.inBody p ∧
      (groupList s.cfg .both)[p.elem]? = some k ∧ s.clk.prepared k = false ∧ answered s d :=
  ⟨⟨rfl, rfl⟩,
    ⟨(State.at (issued (.prepareAll .both) 0 0 []) (bodyPos 5 0 false [])).onClk (clocksSet false), _, .lrclkR,
      ⟨rfl, rfl, rfl⟩, rfl, rfl⟩,
    ⟨State.at (issued (.prepareAll .both) 0 0 [no]) (bodyPos 5 0 false []), _, .lrclkR, _, ⟨rfl, rfl, rfl⟩, rfl, rfl,
      ⟨_, rfl⟩⟩⟩

/-- Both codecs down with a sysclk; all clocks prepared, and enabled or not. -/
def ready (i : Instr) (enabled : Bool) (a0 : Word) (answers : List (Option Answer)) : State :=
  withCodecs ((issued i a0 0 answers).onClk (clocksSet enabled)) (codecAs .down 0x082 true) (codecAs .down 0x082 true)

theorem witness_enable_all :
    (∃ (s : State) (pre post : List CodecId) (c : CodecId), s.atStart ∧ presentCodecs s.cfg = pre ++ c :: post ∧
      (∀ x ∈ pre, (s.codec x).sysclkValid = true) ∧ (s.codec c).sysclkValid = false ∧ pre ≠ []) ∧
    (∃ (s : State) (pre post : List Consumer) (k : Consumer), s.atStart ∧
      (∀ x ∈ presentCodecs s.cfg, (s.codec x).sysclkValid = true) ∧ groupList s.cfg .bclk = pre ++ k :: post ∧
      (∀ x ∈ pre, s.clk.prepared x = true) ∧ s.clk.prepared k = false) ∧
    (∃ s : State, s.atStart ∧ (∀ x ∈ presentCodecs s.cfg, (s.codec x).sysclkValid = true) ∧
      ∀ x ∈ groupList s.cfg .both, s.clk.prepared x = true) ∧
    (∃ (s : State) (p : Position) (k : Consumer), s.inBody p ∧ (groupList s.cfg .both)[p.elem]? = some k ∧
      s.clk.enabled k = true) ∧
    ∃ (s : State) (p : Position) (k : Consumer) (d : Answer), s.inBody p ∧
      (groupList s.cfg .both)[p.elem]? = some k ∧ s.clk.enabled k = false ∧ answered s d :=
  ⟨⟨withCodecs (issued (.enableAll .both) 0 0 []) (codecAs .down 0x082 true) CodecState.reset, [.left], [], .right,
      ⟨rfl, rfl⟩, rfl, by decide, rfl, by decide⟩,
    ⟨(ready (.enableAll .bclk) false 0 []).onClk fun c => { c with bclkR := .idle }, [.bclkHost, .bclkL], [], .bclkR,
      ⟨rfl, rfl⟩, by decide, rfl, by decide, rfl⟩,
    ⟨ready (.enableAll .both) false 0 [], ⟨rfl, rfl⟩, by decide, by decide⟩,
    ⟨State.at (ready (.enableAll .both) true 0 []) (bodyPos 5 0 false []), _, .lrclkR, ⟨rfl, rfl, rfl⟩, rfl, rfl⟩,
    ⟨State.at (ready (.enableAll .both) false 0 [yes]) (bodyPos 5 0 false []), _, .lrclkR, _, ⟨rfl, rfl, rfl⟩, rfl,
      rfl, ⟨_, rfl⟩⟩⟩

theorem witness_disable_all :
    State.atStart (ready (.disableAll .both) true 0 []) ∧
    (∃ (s : State) (p : Position) (k : Consumer), s.inBody p ∧ (groupList s.cfg .both).reverse[p.elem]? = some k ∧
      s.clk.enabled k = false) ∧
    ∃ (s : State) (p : Position) (k : Consumer) (d : Answer), s.inBody p ∧
      (groupList s.cfg .both).reverse[p.elem]? = some k ∧ s.clk.enabled k = true ∧ answered s d :=
  ⟨⟨rfl, rfl⟩,
    ⟨State.at (ready (.disableAll .both) false 0 []) (bodyPos 0 0 false []), _, .lrclkR, ⟨rfl, rfl, rfl⟩, rfl, rfl⟩,
    ⟨State.at (ready (.disableAll .both) true 0 [no]) (bodyPos 5 0 true []), _, .bclkHost, _, ⟨rfl, rfl, rfl⟩, rfl,
      rfl, ⟨_, rfl⟩⟩⟩

theorem witness_unprepare_all :
    (∃ (s : State) (pre post : List Consumer) (k : Consumer), s.atStart ∧
      (groupList s.cfg .both).reverse = pre ++ k :: post ∧ (∀ x ∈ pre, s.clk.enabled x = false) ∧
      s.clk.enabled k = true ∧ pre ≠ []) ∧
    (∃ s : State, s.atStart ∧ ∀ x ∈ groupList s.cfg .both, s.clk.enabled x = false) ∧
    (∃ (s : State) (p : Position) (k : Consumer), s.inBody p ∧ (groupList s.cfg .both).reverse[p.elem]? = some k ∧
      s.clk.prepared k = false) ∧
    ∃ (s : State) (p : Position) (k : Consumer) (d : Answer), s.inBody p ∧
      (groupList s.cfg .both).reverse[p.elem]? = some k ∧ s.clk.prepared k = true ∧ answered s d :=
  ⟨⟨(issued (.unprepareAll .both) 0 0 []).onClk fun c => { c with lrclkL := ⟨true, true⟩ }, [.lrclkR],
      [.lrclkHost, .bclkR, .bclkL, .bclkHost], .lrclkL, ⟨rfl, rfl⟩, rfl, by decide, rfl, by decide⟩,
    ⟨ready (.unprepareAll .both) false 0 [], ⟨rfl, rfl⟩, by decide⟩,
    ⟨atFirst (.unprepareAll .both) 0 0 yes, _, .lrclkR, ⟨rfl, rfl, rfl⟩, rfl, rfl⟩,
    ⟨State.at (ready (.unprepareAll .both) false 0 [no]) (bodyPos 5 0 false []), _, .bclkHost, _, ⟨rfl, rfl, rfl⟩,
      rfl, rfl, ⟨_, rfl⟩⟩⟩

theorem witness_select_master :
    (∃ s : State, s.atStart ∧ s.eng.cur.arg0.toNat ≠ 22579200 ∧ s.eng.cur.arg0.toNat ≠ 24576000) ∧
    (∃ s : State, s.atStart ∧ s.eng.cur.arg0.toNat = 22579200 ∧ s.clk.gatePrepared = true) ∧
    (∃ s : State, s.atStart ∧ s.eng.cur.arg0.toNat = 24576000 ∧ s.clk.gatePrepared = false) ∧
    ∀ r ∈ [0, 1, 2, 3], ∃ (s : State) (p : Position) (d : Answer), s.inBody p ∧ answered s d ∧
      s.eng.cur.arg0.toNat = 24576000 ∧ p.req = r :=
  ⟨⟨issued .selectMaster 24576001 0 [], ⟨rfl, rfl⟩, by decide, by decide⟩,
    ⟨(issued .selectMaster 22579200 0 []).onClk fun c => { c with gatePrepared := true }, ⟨rfl, rfl⟩, by decide, rfl⟩,
    ⟨issued .selectMaster 24576000 0 [], ⟨rfl, rfl⟩, by decide, rfl⟩,
    fun r _ => ⟨State.at (issued .selectMaster 24576000 0 [yes]) (bodyPos 0 r false []), _, _, ⟨rfl, rfl, rfl⟩,
      ⟨_, rfl⟩, by show (24576000 : Word).toNat = 24576000; decide, rfl⟩⟩

theorem witness_release_master :
    State.atStart (issued .releaseMaster 0 0 []) ∧
    ∀ b ∈ [true, false], ∀ r ∈ [0, 1], ∃ (s : State) (p : Position) (d : Answer), s.inBody p ∧ answered s d ∧
      p.req = r ∧ s.clk.gateEnabled = b ∧ s.clk.gatePrepared = b :=
  ⟨⟨rfl, rfl⟩, fun b _ r _ =>
    ⟨(State.at (issued .releaseMaster 0 0 [yes]) (bodyPos 0 r true [])).onClk fun c =>
        { c with gateEnabled := b, gatePrepared := b }, _, _, ⟨rfl, rfl, rfl⟩, ⟨_, rfl⟩, rfl, rfl, rfl⟩⟩

/-! ## Witnesses: the codec commands -/

/-- Both codecs' shadows are sound where the codecs are at reset, or down or up in agreement with their register. -/
theorem sound_of_parts {s : State} (hcfg : s.cfg = Config.reference)
    (h : ∀ c, s.codec c = CodecState.reset ∨ s.codec c = codecAs .down 0x080 false ∨
      s.codec c = codecAs .down 0x082 true ∨ s.codec c = codecAs .up 0x002 true) (c : CodecId) :
    sysclkSound (s.codec c) ∧ powerMatchesShadow s c ∧ shadowSound s c := by
  rcases h c with h | h | h | h
  · exact reset_codec_sound hcfg h
  · exact codec_as_sound hcfg h (.inl ⟨rfl, .inl rfl⟩)
  · exact codec_as_sound hcfg h (.inl ⟨rfl, .inr rfl⟩)
  · exact codec_as_sound hcfg h (.inr ⟨rfl, rfl⟩)

/-- After reset with the command i issued and both codecs at reset: their shadows are sound. -/
theorem issued_sound (i : Instr) (a0 a1 : Word) (l : List (Option Answer)) (p : Position) (c : CodecId) :
    shadowSound (issued i a0 a1 l) c ∧ shadowSound (State.at (issued i a0 a1 l) p) c := by
  constructor
  · exact (sound_of_parts rfl (fun c => .inl (by cases c <;> rfl)) c).2.2
  · exact (sound_of_parts rfl (fun c => .inl (by cases c <;> rfl)) c).2.2

/-- With both codecs down and a sysclk: their shadows are sound. -/
theorem ready_sound (i : Instr) (b : Bool) (a0 : Word) (l : List (Option Answer)) (p : Position) (c : CodecId) :
    shadowSound (ready i b a0 l) c ∧ shadowSound (State.at (ready i b a0 l) p) c := by
  constructor
  · exact (sound_of_parts rfl (fun c => .inr (.inr (.inl (by cases c <;> rfl)))) c).2.2
  · exact (sound_of_parts rfl (fun c => .inr (.inr (.inl (by cases c <;> rfl)))) c).2.2

theorem witness_apply_startup :
    (∃ (s : State) (pre post : List CodecId) (c : CodecId), (∀ c, shadowSound s c) ∧ s.atStart ∧
      codecList .lr = pre ++ c :: post ∧ (∀ x ∈ pre, (s.codec x).pd ≠ .up) ∧ (s.codec c).pd = .up ∧ pre ≠ []) ∧
    (∃ s : State, (∀ c, shadowSound s c) ∧ s.atStart ∧ ∀ x ∈ codecList .lr, (s.codec x).pd ≠ .up) ∧
    (∃ (s : State) (p : Position), (∀ c, shadowSound s c) ∧ s.inBody p ∧
      (codecList .lr)[p.elem]? = some .right ∧ p.req = 0) ∧
    ∀ r ∈ [0, 5], ∃ (s : State) (p : Position) (a v : Nat) (d : Answer), (∀ c, shadowSound s c) ∧ s.inBody p ∧
      (codecList .lr)[p.elem]? = some .right ∧ p.req = r + 1 ∧ s.cfg.startupBatch[r]? = some (a, v) ∧ answered s d :=
  ⟨⟨withCodecs (issued (.applyStartup .lr) 0 0 []) CodecState.reset (codecAs .up 0x002 true), [.left], [], .right,
      fun c => (sound_of_parts rfl (fun c => by cases c; exact .inl rfl; exact .inr (.inr (.inr rfl))) c).2.2,
      ⟨rfl, rfl⟩, rfl, by decide, rfl, by decide⟩,
    ⟨issued (.applyStartup .lr) 0 0 [], fun c => (issued_sound _ _ _ _ Position.start c).1, ⟨rfl, rfl⟩, by decide⟩,
    ⟨State.at (issued (.applyStartup .lr) 0 0 []) (bodyPos 1 0 false []), _, fun c => (issued_sound _ _ _ _ _ c).2,
      ⟨rfl, rfl, rfl⟩, rfl, rfl⟩,
    fun r hr => by
      have : r = 0 ∨ r = 5 := by simpa using hr
      rcases this with rfl | rfl
      · exact ⟨State.at (issued (.applyStartup .lr) 0 0 [no]) (bodyPos 1 1 false []), _, 0, 0, _,
          fun c => (issued_sound _ _ _ _ _ c).2, ⟨rfl, rfl, rfl⟩, rfl, rfl, rfl, ⟨_, rfl⟩⟩
      · exact ⟨State.at (issued (.applyStartup .lr) 0 0 [no]) (bodyPos 1 6 false []), _, 5, 0x080, _,
          fun c => (issued_sound _ _ _ _ _ c).2, ⟨rfl, rfl, rfl⟩, rfl, rfl, rfl, ⟨_, rfl⟩⟩⟩

/-- The read-modify-write value is the model's own `rmwValue`. -/
theorem rmw_value_is (cfg : Config) (base clear set : Nat) :
    isRmwValue cfg base clear set (rmwValue cfg base clear set) := by
  intro i
  simp only [rmwValue, clearBits, Nat.testBit_mod_two_pow, Nat.testBit_or, Nat.testBit_xor, Nat.testBit_and]
  cases base.testBit i <;> cases clear.testBit i <;> cases set.testBit i <;> simp

theorem witness_set_fmt_sysclk :
    (∃ s : State, (∀ c, shadowSound s c) ∧ s.atStart ∧
      s.eng.cur.arg1.toNat &&& s.cfg.fmtMask ≠ s.eng.cur.arg1.toNat) ∧
    (∃ s : State, (∀ c, shadowSound s c) ∧ s.atStart ∧ s.eng.cur.arg0.toNat ≠ 22579200 ∧
      s.eng.cur.arg0.toNat ≠ 24576000) ∧
    (∃ (s : State) (pre post : List CodecId) (c : CodecId), (∀ c, shadowSound s c) ∧ s.atStart ∧
      s.eng.cur.arg0.toNat = 24576000 ∧ s.eng.cur.arg1.toNat &&& s.cfg.fmtMask = s.eng.cur.arg1.toNat ∧
      codecList .lr = pre ++ c :: post ∧ (∀ x ∈ pre, (s.codec x).pd = .down) ∧ (s.codec c).pd ≠ .down ∧ pre ≠ []) ∧
    (∃ s : State, (∀ c, shadowSound s c) ∧ s.atStart ∧ s.eng.cur.arg0.toNat = 22579200 ∧
      s.eng.cur.arg1.toNat &&& s.cfg.fmtMask = s.eng.cur.arg1.toNat ∧ ∀ x ∈ codecList .lr, (s.codec x).pd = .down) ∧
    ∃ (s : State) (p : Position) (c : CodecId) (base v : Nat) (d : Answer), (∀ c, shadowSound s c) ∧ s.inBody p ∧
      (codecList .lr)[p.elem]? = some c ∧ s.shadow c s.cfg.addrFmtctl = some base ∧
      isRmwValue s.cfg base s.cfg.fmtMask s.eng.cur.arg1.toNat v ∧ answered s d :=
  ⟨⟨issued (.setFmtSysclk .lr) 22579200 0x040 [], fun c => (issued_sound _ _ _ _ Position.start c).1, ⟨rfl, rfl⟩,
      by decide⟩,
    ⟨issued (.setFmtSysclk .lr) 44100 0 [], fun c => (issued_sound _ _ _ _ Position.start c).1, ⟨rfl, rfl⟩,
      by decide, by decide⟩,
    ⟨withCodecs (issued (.setFmtSysclk .lr) 24576000 0x03F []) (codecAs .down 0x082 true) (codecAs .up 0x002 true),
      [.left], [], .right,
      fun c => (sound_of_parts rfl (fun c => by
        cases c
        · exact .inr (.inr (.inl rfl))
        · exact .inr (.inr (.inr rfl))) c).2.2,
      ⟨rfl, rfl⟩, by decide, by decide, rfl, by decide, by decide, by decide⟩,
    ⟨ready (.setFmtSysclk .lr) true 22579200 [], fun c => (ready_sound _ _ _ _ Position.start c).1, ⟨rfl, rfl⟩,
      by decide, by decide, by decide⟩,
    ⟨State.at (ready (.setFmtSysclk .lr) true 22579200 [no]) (bodyPos 1 0 false []), _, .right, 0x082, _, _,
      fun c => (ready_sound _ _ _ _ _ c).2, ⟨rfl, rfl, rfl⟩, rfl, by decide, rmw_value_is _ _ _ _, ⟨_, rfl⟩⟩⟩

/-- The master clock settled as well. -/
def mastered (s : State) : State :=
  s.onClk fun c =>
    { c with gatePrepared := true, gateEnabled := true, masterClockEnabled := true, muxSel := some .src44k1 }

theorem mastered_sound (i : Instr) (b : Bool) (a0 : Word) (l : List (Option Answer)) (p : Position) (c : CodecId) :
    shadowSound (mastered (ready i b a0 l)) c ∧ shadowSound (State.at (mastered (ready i b a0 l)) p) c := by
  constructor
  · exact (sound_of_parts rfl (fun c => .inr (.inr (.inl (by cases c <;> rfl)))) c).2.2
  · exact (sound_of_parts rfl (fun c => .inr (.inr (.inl (by cases c <;> rfl)))) c).2.2

theorem witness_power_up :
    (∃ s : State, (∀ c, shadowSound s c) ∧ s.atStart ∧ s.clk.masterClockEnabled = false) ∧
    (∃ (s : State) (pre post : List Consumer) (k : Consumer), (∀ c, shadowSound s c) ∧ s.atStart ∧
      s.clk.masterClockEnabled = true ∧ groupBoth s.cfg = pre ++ k :: post ∧
      (∀ x ∈ pre, s.clk.enabled x = true) ∧ s.clk.enabled k = false) ∧
    (∃ (s : State) (pre post : List CodecId) (c : CodecId), (∀ c, shadowSound s c) ∧ s.atStart ∧
      s.clk.masterClockEnabled = true ∧ (∀ x ∈ groupBoth s.cfg, s.clk.enabled x = true) ∧
      codecList .lr = pre ++ c :: post ∧ (∀ x ∈ pre, (s.codec x).sysclkValid = true) ∧
      (s.codec c).sysclkValid = false ∧ pre ≠ []) ∧
    (∃ s : State, (∀ c, shadowSound s c) ∧ s.atStart ∧ s.clk.masterClockEnabled = true ∧
      (∀ x ∈ groupBoth s.cfg, s.clk.enabled x = true) ∧ ∀ x ∈ codecList .lr, (s.codec x).sysclkValid = true) ∧
    ∃ (s : State) (p : Position) (c : CodecId) (base v : Nat) (d : Answer), (∀ c, shadowSound s c) ∧ s.inBody p ∧
      (codecList .lr)[p.elem]? = some c ∧ s.shadow c s.cfg.addrFmtctl = some base ∧
      isRmwValue s.cfg base s.cfg.pdMask 0 v ∧ answered s d :=
  ⟨⟨ready (.powerUp .lr) true 0 [], fun c => (ready_sound _ _ _ _ Position.start c).1, ⟨rfl, rfl⟩, rfl⟩,
    ⟨mastered (ready (.powerUp .lr) false 0 []), [], [.bclkL, .bclkR, .lrclkHost, .lrclkL, .lrclkR], .bclkHost,
      fun c => (mastered_sound _ _ _ _ Position.start c).1, ⟨rfl, rfl⟩, rfl, rfl, by decide, rfl⟩,
    ⟨withCodecs (mastered (ready (.powerUp .lr) true 0 [])) (codecAs .down 0x082 true) (codecAs .down 0x080 false),
      [.left], [], .right,
      fun c => (sound_of_parts rfl (fun c => by
        cases c
        · exact .inr (.inr (.inl rfl))
        · exact .inr (.inl rfl)) c).2.2,
      ⟨rfl, rfl⟩, rfl, by decide, rfl, by decide, rfl, by decide⟩,
    ⟨mastered (ready (.powerUp .lr) true 0 []), fun c => (mastered_sound _ _ _ _ Position.start c).1, ⟨rfl, rfl⟩, rfl,
      by decide, by decide⟩,
    ⟨State.at (mastered (ready (.powerUp .lr) true 0 [no])) (bodyPos 1 0 false []), _, .right, 0x082, _, _,
      fun c => (mastered_sound _ _ _ _ _ c).2, ⟨rfl, rfl, rfl⟩, rfl, by decide, rmw_value_is _ _ _ _, ⟨_, rfl⟩⟩⟩

/-- A codec whose format-control register is unknown, after a failed write. -/
def codecUnknown : CodecState := { CodecState.reset with shadow := [(5, none)] }

theorem unknown_sound {s : State} {c : CodecId} (hcfg : s.cfg = Config.reference) (hc : s.codec c = codecUnknown) :
    shadowSound s c := shadow_sound_of hcfg (by rw [hc]; decide) (by rw [hc]; decide)

theorem witness_power_down :
    (∃ s : State, (∀ c, shadowSound s c) ∧ s.atStart) ∧
    (∃ (s : State) (p : Position) (base : Nat) (d : Answer), (∀ c, shadowSound s c) ∧ s.inBody p ∧
      (codecList .lr)[p.elem]? = some .left ∧ s.shadow .left s.cfg.addrFmtctl = some base ∧ answered s d) ∧
    ∃ (s : State) (p : Position) (d : Answer), (∀ c, shadowSound s c) ∧ s.inBody p ∧
      (codecList .lr)[p.elem]? = some .right ∧ s.shadow .right s.cfg.addrFmtctl = none ∧ answered s d :=
  ⟨⟨issued (.powerDown .lr) 0 0 [], fun c => (issued_sound _ _ _ _ Position.start c).1, ⟨rfl, rfl⟩⟩,
    ⟨State.at (ready (.powerDown .lr) true 0 [no]) (bodyPos 0 0 false []), _, 0x082, _,
      fun c => (ready_sound _ _ _ _ _ c).2, ⟨rfl, rfl, rfl⟩, rfl, by decide, ⟨_, rfl⟩⟩,
    ⟨State.at (withCodecs (issued (.powerDown .lr) 0 0 [no]) codecUnknown codecUnknown) (bodyPos 1 0 false []), _, _,
      fun c => unknown_sound rfl (by cases c <;> rfl), ⟨rfl, rfl, rfl⟩, rfl, by decide, ⟨_, rfl⟩⟩⟩

/-! ## Witnesses: the engine holds -/

/-- A body position with no answer coming: both codecs down with their sysclk, the clocks prepared, and enabled or
not. -/
def holding (i : Instr) (enabled : Bool) (req : Nat) : State := State.at (ready i enabled 22579200 [none]) (bodyPos 0 req false [])

theorem witness_engine_holds :
    (∀ g, ∃ s, s.env.answers = [none] ∧ hasRequest (.enableAll g) s) ∧
    (∃ s, s.env.answers = [none] ∧ hasRequest (.prepareAll .both) s) ∧
    (∃ s, s.env.answers = [none] ∧ hasRequest (.disableAll .both) s) ∧
    (∃ s, s.env.answers = [none] ∧ hasRequest (.unprepareAll .both) s) ∧
    (∀ r ∈ [0, 1, 2, 3], ∃ s, s.env.answers = [none] ∧ hasRequest .selectMaster s ∧ s.position.req = r) ∧
    (∀ r ∈ [0, 1], ∃ s, s.env.answers = [none] ∧ hasRequest .releaseMaster s ∧ s.position.req = r) ∧
    (∃ s, s.env.answers = [none] ∧ hasRequest (.applyStartup .lr) s) ∧
    (∃ s, s.env.answers = [none] ∧ hasRequest (.setFmtSysclk .lr) s) ∧
    (∃ s, s.env.answers = [none] ∧ hasRequest (.powerUp .lr) s) ∧
    (∃ s, s.env.answers = [none] ∧ hasRequest (.powerDown .lr) s) ∧
    (∃ s, s.env.answers = [none] ∧ hasRequest (.setVolume .left .ch0) s) ∧
    (∃ s, s.env.answers = [none] ∧ hasRequest (.getVolume .left .ch0) s) ∧
    (∃ s, s.env.answers = [none] ∧ hasRequest (.readSynced .lr .dither) s) ∧
    (∃ s, s.env.answers = [none] ∧ hasRequest (.writeSynced .lr .dither) s) ∧
    ∃ s, s.env.answers = [none] ∧ ¬ hasRequest (.prepareAll .both) s := by
  refine ⟨fun g => ⟨holding (.enableAll g) false 0, rfl, rfl, ?_⟩,
    ⟨atFirst (.prepareAll .both) 0 0 none, rfl, rfl, .bclkHost, rfl, rfl⟩,
    ⟨holding (.disableAll .both) true 0, rfl, rfl, .lrclkR, rfl, rfl⟩,
    ⟨holding (.unprepareAll .both) false 0, rfl, rfl, .lrclkR, rfl, rfl⟩,
    fun r _ => ⟨holding .selectMaster false r, rfl, ⟨rfl, by show isMasterRate 22579200 = true; decide⟩, rfl⟩,
    fun r hr => ⟨(holding .releaseMaster false r).onClk fun c => { c with gateEnabled := true, gatePrepared := true }, rfl,
      ⟨rfl, ?_⟩, rfl⟩,
    ⟨holding (.applyStartup .lr) false 6, rfl, rfl, .left, 5, rfl, rfl, by decide⟩,
    ⟨holding (.setFmtSysclk .lr) false 0, rfl, rfl, .left, rfl, by decide⟩,
    ⟨holding (.powerUp .lr) false 0, rfl, rfl, .left, rfl, by decide⟩,
    ⟨holding (.powerDown .lr) false 0, rfl, rfl, .left, rfl⟩,
    ⟨holding (.setVolume .left .ch0) false 1, rfl, rfl, trivial⟩,
    ⟨holding (.getVolume .left .ch0) false 1, rfl, rfl, trivial⟩,
    ⟨holding (.readSynced .lr .dither) false 0, rfl, rfl, .left, rfl⟩,
    ⟨holding (.writeSynced .lr .dither) false 0, rfl, rfl, .left, rfl, by decide⟩,
    ⟨holding (.prepareAll .both) false 0, rfl, ?_⟩⟩
  · cases g
    · exact ⟨.bclkHost, rfl, rfl⟩
    · exact ⟨.lrclkHost, rfl, rfl⟩
    · exact ⟨.bclkHost, rfl, rfl⟩
  · have : r = 0 ∨ r = 1 := by simpa using hr
    rcases this with rfl | rfl
    · exact .inl ⟨rfl, rfl⟩
    · exact .inr ⟨by decide, rfl⟩
  · rintro ⟨-, k, hk, hp⟩
    cases k <;> exact absurd hp (by decide)

/-! ## Witnesses: volume and controls -/

/-- The reference parameters with a mono left codec. -/
def monoConfig : Config := { Config.reference with diffLeft := .monoRight }

/-- A command issued right after the reset of a mono instance. -/
def issuedMono (i : Instr) (a0 : Word) (l : List (Option Answer)) : State := { issued i a0 0 l with cfg := monoConfig }

theorem mono_sound (i : Instr) (a0 : Word) (l : List (Option Answer)) (c : CodecId) :
    shadowSound (issuedMono i a0 l) c := by
  have h : (issuedMono i a0 l).codec c = CodecState.reset := by cases c <;> rfl
  refine ⟨by rw [h]; exact Memory.wf_nil _, fun a v hv => ?_⟩
  unfold State.shadow at hv
  rw [h] at hv
  obtain rfl : (0 : Nat) = v := Option.some.inj hv
  show 0 < 512
  omega

theorem witness_set_volume :
    (∃ s : State, configOk s.cfg = true ∧ (∀ c, shadowSound s c) ∧ s.atStart ∧ 1023 < s.eng.cur.arg0.toNat) ∧
    (∃ s : State, configOk s.cfg = true ∧ (∀ c, shadowSound s c) ∧ s.atStart ∧ diffMode s.cfg .left = .monoRight) ∧
    (∃ s : State, configOk s.cfg = true ∧ (∀ c, shadowSound s c) ∧ s.atStart ∧ s.eng.cur.arg0.toNat ≤ 1023 ∧
      diffMode s.cfg .left = .stereo) ∧
    ∀ r ∈ [0, 1], ∃ (s : State) (p : Position) (d : Answer), configOk s.cfg = true ∧ (∀ c, shadowSound s c) ∧
      s.inBody p ∧ s.eng.cur.arg0.toNat ≤ 1023 ∧ answered s d ∧ p.req = r :=
  ⟨⟨issued (.setVolume .left .ch0) 1024 0 [], by decide, fun c => (issued_sound _ _ _ _ Position.start c).1,
      ⟨rfl, rfl⟩, by decide⟩,
    ⟨issuedMono (.setVolume .left .ch1) 5 [], by decide, mono_sound _ _ _, ⟨rfl, rfl⟩, rfl⟩,
    ⟨issued (.setVolume .left .ch1) 1023 0 [], by decide, fun c => (issued_sound _ _ _ _ Position.start c).1,
      ⟨rfl, rfl⟩, by decide, rfl⟩,
    fun r _ => ⟨State.at (issued (.setVolume .left .ch1) 1023 0 [no]) (bodyPos 0 r false []), _, _,
      by show configOk Config.reference = true; decide, fun c => (issued_sound _ _ _ _ _ c).2, ⟨rfl, rfl, rfl⟩,
      by show (1023 : Word).toNat ≤ 1023; decide, ⟨_, rfl⟩, rfl⟩⟩

theorem witness_get_volume :
    (∃ s : State, s.atStart ∧ diffMode s.cfg .left = .monoRight) ∧
    (∃ s : State, s.atStart ∧ diffMode s.cfg .left = .stereo) ∧
    (∃ (s : State) (p : Position) (d : Answer), s.inBody p ∧ answered s d ∧ p.req = 0) ∧
    ∃ (s : State) (p : Position) (d : Answer) (l : Nat), s.inBody p ∧ answered s d ∧ p.req = 1 ∧ p.vals = [l] :=
  ⟨⟨issuedMono (.getVolume .left .ch1) 0 [], ⟨rfl, rfl⟩, rfl⟩,
    ⟨issued (.getVolume .left .ch1) 0 0 [], ⟨rfl, rfl⟩, rfl⟩,
    ⟨atFirst (.getVolume .left .ch1) 0 0 no, _, _, ⟨rfl, rfl, rfl⟩, ⟨_, rfl⟩, rfl⟩,
    ⟨State.at (issued (.getVolume .left .ch1) 0 0 [yes]) (bodyPos 0 1 false [0x1FF]), _, _, _, ⟨rfl, rfl, rfl⟩,
      ⟨_, rfl⟩, rfl, rfl⟩⟩

theorem witness_read_synced :
    State.atStart (issued (.readSynced .lr .filter) 0 0 []) ∧
    (∃ (s : State) (p : Position), s.inBody p ∧ p.elem = 2 ∧ p.vals = [3, 1]) ∧
    ∃ (s : State) (p : Position) (c : CodecId) (d : Answer), s.inBody p ∧ (codecList .lr)[p.elem]? = some c ∧
      p.vals.length = p.elem ∧ answered s d :=
  ⟨⟨rfl, rfl⟩,
    ⟨State.at (issued (.readSynced .lr .filter) 0 0 []) (bodyPos 2 0 false [3, 1]), _, ⟨rfl, rfl, rfl⟩, rfl, rfl⟩,
    ⟨State.at (issued (.readSynced .lr .filter) 0 0 [yes]) (bodyPos 1 0 false [7]), _, .right, _, ⟨rfl, rfl, rfl⟩,
      rfl, rfl, ⟨_, rfl⟩⟩⟩

/-- A codec whose control register at 0x08 is unknown. -/
def controlUnknown : CodecState := { CodecState.reset with shadow := [(8, none)] }

theorem control_unknown_sound {s : State} {c : CodecId} (hcfg : s.cfg = Config.reference)
    (hc : s.codec c = controlUnknown) : sysclkSound (s.codec c) ∧ powerMatchesShadow s c ∧ shadowSound s c := by
  refine ⟨by rw [hc]; exact ⟨by decide, by decide⟩, ?_, shadow_sound_of hcfg (by rw [hc]; decide) (by rw [hc]; decide)⟩
  unfold powerMatchesShadow
  rw [hc]
  exact ⟨fun h => absurd h (by decide), fun h => absurd h (by decide)⟩

/-- A WRITE_SYNCED of the dither control at the right codec, whose register is unknown. -/
def writeUnknown (d : Option Answer) : State :=
  State.at (withCodecs (issued (.writeSynced .lr .dither) 3 0 [d]) CodecState.reset controlUnknown) (bodyPos 1 0 false [])

theorem write_unknown_sound (d : Option Answer) (c : CodecId) :
    sysclkSound ((writeUnknown d).codec c) ∧ powerMatchesShadow (writeUnknown d) c ∧ shadowSound (writeUnknown d) c := by
  cases c
  · exact reset_codec_sound rfl rfl
  · exact control_unknown_sound rfl rfl

theorem witness_write_synced :
    (∃ s : State, (∀ c, shadowSound s c) ∧ s.atStart ∧ 5 ≤ s.eng.cur.arg0.toNat) ∧
    (∃ s : State, (∀ c, shadowSound s c) ∧ s.atStart ∧ s.eng.cur.arg0.toNat < 5) ∧
    (∃ (s : State) (p : Position), (∀ c, shadowSound s c) ∧ s.inBody p ∧ (codecList .lr)[p.elem]? = some .right ∧
      s.shadow .right (enumDesc s.cfg .dither).addr = none) ∧
    ∃ (s : State) (p : Position) (base v : Nat) (d : Answer), (∀ c, shadowSound s c) ∧ s.inBody p ∧
      (codecList .lr)[p.elem]? = some .right ∧ s.shadow .right (enumDesc s.cfg .filter).addr = some base ∧
      isRmwValue s.cfg base ((2 ^ (enumDesc s.cfg .filter).width - 1) * 2 ^ (enumDesc s.cfg .filter).shift)
        (s.eng.cur.arg0.toNat * 2 ^ (enumDesc s.cfg .filter).shift) v ∧ answered s d :=
  ⟨⟨issued (.writeSynced .lr .filter) 5 0 [], fun c => (issued_sound _ _ _ _ Position.start c).1, ⟨rfl, rfl⟩,
      by decide⟩,
    ⟨issued (.writeSynced .lr .filter) 4 0 [], fun c => (issued_sound _ _ _ _ Position.start c).1, ⟨rfl, rfl⟩,
      by decide⟩,
    ⟨writeUnknown yes, _, fun c => (write_unknown_sound yes c).2.2, ⟨rfl, rfl, rfl⟩, rfl, by decide⟩,
    ⟨State.at (issued (.writeSynced .lr .filter) 4 0 [no]) (bodyPos 1 0 false []), _, 0, _, _,
      fun c => (issued_sound _ _ _ _ _ c).2, ⟨rfl, rfl, rfl⟩, rfl, by decide, rmw_value_is _ _ _ _, ⟨_, rfl⟩⟩⟩

/-! ## Witnesses: frames -/

theorem witness_group_frame : ∀ (g : Group) (i : Instr),
    i = .prepareAll g ∨ i = .enableAll g ∨ i = .disableAll g ∨ i = .unprepareAll g →
    ∃ s t, exec i s = .next t :=
  fun _ i _ => ⟨ready i true 0 [yes], exec_isNext i _⟩

theorem witness_master_frame :
    (∃ s t, exec .selectMaster s = .next t) ∧ ∃ s t, exec .releaseMaster s = .next t :=
  ⟨⟨atFirst .selectMaster 22579200 0 yes, _, rfl⟩, ⟨mastered (ready .releaseMaster true 0 [yes]), _, rfl⟩⟩

theorem witness_codec_frame : ∀ (cs : CodecSet) (i : Instr),
    i = .applyStartup cs ∨ i = .setFmtSysclk cs ∨ i = .powerUp cs ∨ i = .powerDown cs →
    ∃ s t c, exec i s = .next t ∧ currentCodec cs s ≠ some c := by
  intro cs i _
  obtain ⟨t, ht⟩ := exec_isNext i (State.at (ready i true 0 [no]) (bodyPos 0 0 false []))
  cases cs
  · exact ⟨_, t, .right, ht, by simp [currentCodec, codecList, CodecSet.codecs, State.at, State.position, bodyPos]⟩
  · exact ⟨_, t, .left, ht, by simp [currentCodec, codecList, CodecSet.codecs, State.at, State.position, bodyPos]⟩
  · exact ⟨_, t, .right, ht, by simp [currentCodec, codecList, CodecSet.codecs, State.at, State.position, bodyPos]⟩

theorem witness_control_write_frame :
    (∃ s t, configOk s.cfg = true ∧ exec (.setVolume .left .ch1) s = .next t) ∧
    ∃ s t, configOk s.cfg = true ∧ exec (.writeSynced .lr .dither) s = .next t :=
  ⟨⟨atFirst (.setVolume .left .ch1) 1023 0 no, _, by decide, rfl⟩,
    ⟨atFirst (.writeSynced .lr .dither) 3 0 no, _, by decide, rfl⟩⟩

theorem witness_read_frame :
    (∃ s t, exec (.getVolume .left .ch1) s = .next t) ∧ ∃ s t, exec (.readSynced .lr .dither) s = .next t :=
  ⟨⟨atFirst (.getVolume .left .ch1) 0 0 yes, _, rfl⟩, ⟨atFirst (.readSynced .lr .dither) 0 0 yes, _, rfl⟩⟩

/-! ## Witnesses: whole-machine rules -/

theorem witness_shadow_follows : ∃ (i : Instr) (s t : State), (∀ c, shadowSound s c) ∧ exec i s = .next t :=
  ⟨.setVolume .left .ch0, atFirst (.setVolume .left .ch0) 500 0 no, _, fun c => (issued_sound _ _ _ _ _ c).2, rfl⟩

theorem witness_requests_in_range : ∃ (i : Instr) (s t : State), exec i s = .next t ∧ configOk s.cfg = true ∧
    i.wellFormed s.cfg.numCodecs = true ∧ ∀ c, shadowSound s c :=
  ⟨.writeSynced .r .filter, atFirst (.writeSynced .r .filter) 4 0 yes, _, rfl, by decide, by decide,
    fun c => (issued_sound _ _ _ _ _ c).2⟩

theorem witness_position_moves : ∃ (i : Instr) (s t : State) (p : Position), s.eng.busy = true ∧
    s.eng.step = some p ∧ exec i s = .next t :=
  ⟨.prepareAll .both, atFirst (.prepareAll .both) 0 0 yes, _, _, rfl, rfl, rfl⟩

/-- PREPARE_ALL at its first clock, right after reset, meets the invariant. -/
theorem inv_at_first_prepare (d : Option Answer) : Inv (atFirst (.prepareAll .both) 0 0 d) := by
  have hs := fun c => sound_of_parts (s := atFirst (.prepareAll .both) 0 0 d) rfl (fun c => .inl (by cases c <;> rfl)) c
  exact inv_of_running (i := .prepareAll .both) (p := bodyPos 0 0 false []) rfl
    ⟨rfl, by show decode .two (encode (.prepareAll .both)) = _; decide⟩ rfl rfl rfl
    (by intro k h; cases k <;> exact nomatch (show false = true from h)) (fun h => nomatch (show false = true from h))
    (fun h => nomatch (show false = true from h)) rfl (fun c => (hs c).1) (fun c => (hs c).2.1) (fun c => (hs c).2.2)
    (fun c => by cases c <;> exact Memory.wf_nil _) fun _ => trivial

theorem witness_clock_moves : ∃ (i : Instr) (s t : State), Inv s ∧ s.runs i ∧ exec i s = .next t ∧
    s.clk.flags .bclkHost = ⟨false, false⟩ ∧ t.clk.flags .bclkHost = ⟨true, false⟩ :=
  ⟨.prepareAll .both, atFirst (.prepareAll .both) 0 0 yes, _, inv_at_first_prepare yes, ⟨rfl, by decide⟩, rfl, rfl, rfl⟩

theorem witness_master_flag :
    (∃ (i : Instr) (s t : State), exec i s = .next t ∧ s.clk.masterClockEnabled = false ∧
      t.clk.masterClockEnabled = true) ∧
    ∃ (i : Instr) (s t : State), exec i s = .next t ∧ s.clk.masterClockEnabled = true ∧
      t.clk.masterClockEnabled = false ∧ s.position.phase = .start :=
  ⟨⟨.selectMaster, State.at (issued .selectMaster 22579200 0 [yes]) (bodyPos 0 3 false []), _, rfl, rfl, rfl⟩,
    ⟨.releaseMaster, mastered (issued .releaseMaster 0 0 []), _, rfl, rfl, rfl, rfl⟩⟩

/-- POWER_UP at its first codec, everything running, meets the invariant. -/
def poweringUp : State := State.at (mastered (ready (.powerUp .lr) true 0 [yes])) (bodyPos 0 0 false [])

theorem inv_powering_up : Inv poweringUp := by
  have hs := fun c => sound_of_parts (s := poweringUp) rfl (fun c => .inr (.inr (.inl (by cases c <;> rfl)))) c
  exact inv_of_running (i := .powerUp .lr) (p := bodyPos 0 0 false []) rfl ⟨rfl, by decide⟩ rfl rfl rfl
    (by intro k _; cases k <;> decide) (fun _ => rfl) (fun _ => ⟨rfl, by decide, rfl⟩) rfl (fun c => (hs c).1)
    (fun c => (hs c).2.1) (fun c => (hs c).2.2) (fun c => by cases c <;> exact Memory.wf_nil _)
    fun _ => ⟨rfl, by decide, by decide⟩

theorem witness_codec_up : ∃ (i : Instr) (s t : State), Inv s ∧ configOk s.cfg = true ∧ s.runs i ∧
    exec i s = .next t ∧ (s.codec .left).pd ≠ .up ∧ (t.codec .left).pd = .up :=
  ⟨.powerUp .lr, poweringUp, _, inv_powering_up, by decide, ⟨rfl, by decide⟩, rfl, by decide, by decide⟩

/-- POWER_DOWN at its first codec right after reset meets the invariant. -/
theorem inv_at_first_power_down (d : Option Answer) : Inv (atFirst (.powerDown .lr) 0 0 d) := by
  have hs := fun c => sound_of_parts (s := atFirst (.powerDown .lr) 0 0 d) rfl (fun c => .inl (by cases c <;> rfl)) c
  exact inv_of_running (i := .powerDown .lr) (p := bodyPos 0 0 false []) rfl
    ⟨rfl, by show decode .two (encode (.powerDown .lr)) = _; decide⟩ rfl rfl rfl
    (by intro k h; cases k <;> exact nomatch (show false = true from h)) (fun h => nomatch (show false = true from h))
    (fun h => nomatch (show false = true from h)) rfl (fun c => (hs c).1) (fun c => (hs c).2.1) (fun c => (hs c).2.2)
    (fun c => by cases c <;> exact Memory.wf_nil _) fun _ => trivial

theorem witness_unknown_power :
    (∃ (i : Instr) (s t : State), Inv s ∧ configOk s.cfg = true ∧ s.runs i ∧ exec i s = .next t ∧
      (t.codec .left).pd = .unknown) ∧
    ∃ (i : Instr) (s t : State), Inv s ∧ configOk s.cfg = true ∧ s.runs i ∧ exec i s = .next t ∧
      (s.codec .left).pd = .unknown ∧ (t.codec .left).pd ≠ .unknown :=
  ⟨⟨.powerDown .lr, atFirst (.powerDown .lr) 0 0 no, _, inv_at_first_power_down no, by decide, ⟨rfl, by decide⟩, rfl,
      by decide⟩,
    ⟨.powerDown .lr, atFirst (.powerDown .lr) 0 0 yes, _, inv_at_first_power_down yes, by decide, ⟨rfl, by decide⟩, rfl,
      by decide, by decide⟩⟩

theorem witness_sysclk :
    (∃ (i : Instr) (s t : State), exec i s = .next t ∧ (s.codec .right).sysclkValid = false ∧
      (t.codec .right).sysclkValid = true) ∧
    (∃ s : State, present s.cfg .right = true ∧ (s.codec .right).sysclkValid = false ∧ s.atStart) ∧
    ∃ s : State, CodecId.right ∈ codecList .lr ∧ (s.codec .right).sysclkValid = false ∧ s.atStart :=
  ⟨⟨.setFmtSysclk .lr, State.at (issued (.setFmtSysclk .lr) 22579200 2 [yes]) (bodyPos 1 0 false []), _, rfl, rfl, rfl⟩,
    ⟨issued (.enableAll .lrclk) 0 0 [], by decide, rfl, ⟨rfl, rfl⟩⟩,
    ⟨mastered (issued (.powerUp .lr) 0 0 []), by decide, rfl, ⟨rfl, rfl⟩⟩⟩

theorem witness_data : ∃ (i : Instr) (s t : State), exec i s = .next t ∧ t.win.data ≠ s.win.data :=
  ⟨.getVolume .left .ch0, State.at (issued (.getVolume .left .ch0) 0 0 [yes]) (bodyPos 0 1 false [0]), _, rfl, by decide⟩

theorem witness_state_unknown : ∃ (i : Instr) (s t : State), Inv s ∧ configOk s.cfg = true ∧ s.runs i ∧
    s.win.code = .ok ∧ exec i s = .next t ∧ t.win.code = .stateUnknown := by
  refine ⟨.writeSynced .lr .dither, writeUnknown yes, _, ?_, by decide, ⟨rfl, by decide⟩, rfl, rfl, by decide⟩
  have hs := write_unknown_sound yes
  exact inv_of_running (i := .writeSynced .lr .dither) (p := bodyPos 1 0 false []) rfl ⟨rfl, by decide⟩ rfl rfl rfl
    (by intro k h; cases k <;> exact absurd h (by decide)) (fun h => absurd h (by decide))
    (fun h => absurd h (by decide)) rfl (fun c => (hs c).1) (fun c => (hs c).2.1) (fun c => (hs c).2.2)
    (fun c => by cases c <;> exact Memory.wf_nil _) fun _ => trivial

theorem witness_msb_write : ∃ (i : Instr) (s t : State) (v : Nat) (ok : Bool), configOk s.cfg = true ∧
    exec i s = .next t ∧ recorded s t [.memWrite .left (addrAttMsb s.cfg .ch0) v ok] :=
  ⟨.setVolume .left .ch0, State.at (issued (.setVolume .left .ch0) 500 0 [no]) (bodyPos 0 1 false []), _, 0x030, false,
    by decide, rfl, by unfold recorded; decide⟩

/-! ## Witnesses: commands from their issue to their end -/

/-- Six successes. -/
def sixYes : List (Option Answer) := [yes, yes, yes, yes, yes, yes]

theorem six_yes (n : Nat) (s : State) (h : s.env.answers = sixYes) (hn : n ≤ 6) : answersOk s n ∧ answersCome s n := by
  refine ⟨⟨by rw [h]; exact hn, ?_⟩, ⟨by rw [h]; exact hn, ?_⟩⟩
  · rw [h]
    intro a ha
    have : a = yes := by simpa [sixYes] using ha
    exact ⟨_, this, rfl⟩
  · rw [h]
    intro a ha
    have : a = yes := by simpa [sixYes] using ha
    rw [this]
    decide

theorem witness_command_ends : ∃ (i : Instr) (s : State), s.atStart ∧ answersCome s (stepBound s.cfg i) ∧
    answersOk s (stepBound s.cfg i) ∧ checksPass i s :=
  ⟨.selectMaster, issued .selectMaster 24576000 0 sixYes, ⟨rfl, rfl⟩, (six_yes 5 _ rfl (by decide)).2,
    (six_yes 5 _ rfl (by decide)).1, ⟨by decide, rfl⟩⟩

theorem witness_failed_select :
    (∃ s : State, s.atStart ∧ answersCome s 2 ∧ s.clk.gatePrepared = true) ∧
    (∃ s : State, s.atStart ∧ s.clk.gatePrepared = false ∧ s.clk.gateEnabled = false ∧
      s.clk.masterClockEnabled = false ∧ masterSource s.eng.cur.arg0 = none) ∧
    ∀ l ∈ [[no], [yes, no], [yes, yes, no]], ∃ (s : State) (src : MasterSource), s.atStart ∧
      s.clk.gatePrepared = false ∧ s.clk.gateEnabled = false ∧ s.clk.masterClockEnabled = false ∧
      masterSource s.eng.cur.arg0 = some src ∧ s.env.answers = l :=
  ⟨⟨(issued .releaseMaster 0 0 sixYes).onClk fun c => { c with gatePrepared := true }, ⟨rfl, rfl⟩,
      (six_yes 2 _ rfl (by decide)).2, rfl⟩,
    ⟨issued .selectMaster 44100 0 [], ⟨rfl, rfl⟩, rfl, rfl, rfl, by decide⟩,
    fun l _ => ⟨issued .selectMaster 22579200 0 l, .src44k1, ⟨rfl, rfl⟩, rfl, rfl, rfl,
      by show masterSource 22579200 = _; decide, rfl⟩⟩

theorem witness_unwinding : ∃ s : State, s.atStart ∧ absentAtReset s ∧ answersCome s 14 := by
  refine ⟨mastered (ready (.disableAll .both) true 0 (List.replicate 14 no)), ⟨rfl, rfl⟩, ⟨?_, ?_⟩, by decide, ?_⟩
  · intro k h; cases k <;> exact absurd h (by decide)
  · intro c h; cases c <;> exact absurd h (by decide)
  · intro a ha
    have : a = no := List.eq_of_mem_replicate ha
    rw [this]
    decide

theorem witness_repeated_start :
    (∃ s t : State, s.atStart ∧ runExec (.prepareAll .bclk) 4 s = .next t ∧ t.endedWith .ok 0 0) ∧
    ∃ s t : State, s.atStart ∧ runExec (.enableAll .bclk) 9 s = .next t ∧ t.endedWith .ok 0 0 :=
  ⟨⟨issued (.prepareAll .bclk) 0 0 sixYes, _, ⟨rfl, rfl⟩, rfl, ⟨rfl, rfl, rfl, rfl, rfl⟩⟩,
    ⟨ready (.enableAll .bclk) false 0 sixYes, _, ⟨rfl, rfl⟩, rfl, ⟨rfl, rfl, rfl, rfl, rfl⟩⟩⟩

theorem witness_idle_teardown : ∃ s : State, s.atStart ∧
    (∀ k ∈ groupList s.cfg .both, s.clk.flags k = Lifecycle.idle) ∧ s.clk.gatePrepared = false ∧
    s.clk.gateEnabled = false :=
  ⟨issued .releaseMaster 0 0 [], ⟨rfl, rfl⟩, by decide, rfl, rfl⟩

theorem witness_prepare_then_enable : ∃ s : State, s.atStart ∧
    (∀ k ∈ groupList s.cfg .bclk, s.clk.flags k = Lifecycle.idle) ∧
    (∀ c, present s.cfg c = true → (s.codec c).sysclkValid = true) ∧
    answersOk s (2 * (groupList s.cfg .bclk).length) :=
  ⟨withCodecs (issued (.prepareAll .bclk) 0 0 sixYes) (codecAs .down 0x082 true) (codecAs .down 0x082 true), ⟨rfl, rfl⟩,
    by decide, by intro c _; cases c <;> rfl, (six_yes 6 _ rfl (by decide)).1⟩

theorem witness_set_volume_run : ∃ s t : State, s.atStart ∧ runExec (.setVolume .right .ch1) 3 s = .next t :=
  ⟨issued (.setVolume .right .ch1) 0 0 sixYes, _, ⟨rfl, rfl⟩, rfl⟩

/-- The reference codec model plugged in. -/
def plugged (s : State) : State := { s with ref := { s.ref with plugged := true } }

theorem witness_volume_reads_back : ∃ s : State, configOk s.cfg = true ∧ s.atStart ∧ s.ref.plugged = true ∧
    (∀ c, refSound s c) ∧ answersOk s 4 ∧ channelLegal s.cfg .right .ch1 = true ∧ s.eng.cur.arg0.toNat ≤ 1023 :=
  ⟨plugged (issued (.setVolume .right .ch1) 1023 0 sixYes), by decide, ⟨rfl, rfl⟩, rfl,
    fun c => by cases c <;> exact Memory.wf_nil _, (six_yes 4 _ rfl (by decide)).1, by decide, by decide⟩

theorem witness_partial_set_volume :
    ∀ l ∈ [[no], [yes, no]], ∃ s : State, configOk s.cfg = true ∧ s.atStart ∧ s.ref.plugged = true ∧
      channelLegal s.cfg .left .ch0 = true ∧ s.eng.cur.arg0.toNat ≤ 1023 ∧ s.env.answers = l :=
  fun l _ => ⟨plugged (issued (.setVolume .left .ch0) 500 0 l), by show configOk Config.reference = true; decide,
    ⟨rfl, rfl⟩, rfl, rfl, by show (500 : Word).toNat ≤ 1023; decide, rfl⟩

theorem witness_read_synced_run : ∃ (s : State) (d0 d1 : Answer) (rest : List (Option Answer)), s.atStart ∧
    s.env.answers = some d0 :: some d1 :: rest :=
  ⟨issued (.readSynced .lr .filter) 0 0 [some (answer true 3 0), some (answer true 1 0)], _, _, _, ⟨rfl, rfl⟩, rfl⟩

theorem witness_write_synced_run : ∃ s t : State, configOk s.cfg = true ∧ s.atStart ∧ (∀ c, shadowSound s c) ∧
    (∀ c, refSound s c) ∧ codecList .lr = presentCodecs s.cfg ∧
    runExec (.writeSynced .lr .dither) 3 s = .next t ∧ t.endedWith .ok 0 0 ∧ s.ref.plugged = true :=
  ⟨plugged (issued (.writeSynced .lr .dither) 3 0 sixYes), _, by decide, ⟨rfl, rfl⟩,
    fun c => (sound_of_parts rfl (fun c => .inl (by cases c <;> rfl)) c).2.2,
    fun c => by cases c <;> exact Memory.wf_nil _, by decide, rfl, ⟨rfl, rfl, rfl, rfl, rfl⟩, rfl⟩

/-! ## Witnesses: volume encoding, reference codec, invariant -/

theorem witness_volume_value : ∃ (cfg : Config) (v : Nat), configOk cfg = true ∧ v ≤ 1023 ∧ v = 1023 :=
  ⟨Config.reference, 1023, by decide, by decide, rfl⟩

theorem witness_reference_codec : ∃ (cfg : Config) (r : RefCodec), configOk cfg = true ∧
    Memory.wf (resetDefault cfg) r.reg ∧ 0x020 &&& cfg.latchMask ≠ 0 ∧ 0x01F &&& cfg.latchMask = 0 :=
  ⟨Config.reference, RefCodec.reset Config.reference, by decide, Memory.wf_nil _, by decide, by decide⟩

theorem witness_failed_write : ∃ (m : RefModel) (c c' : CodecId), m.plugged = true ∧ c' ≠ c :=
  ⟨(plugged State.reset).ref, .left, .right, rfl, by decide⟩

/-- UNPREPARE_ALL in its guard loop, right after reset, meets the invariant. -/
theorem inv_in_guards : Inv (State.at (issued (.unprepareAll .both) 0 0 []) (guardPos 1)) := by
  have hs := fun c =>
    sound_of_parts (s := State.at (issued (.unprepareAll .both) 0 0 []) (guardPos 1)) rfl
      (fun c => .inl (by cases c <;> rfl)) c
  exact inv_of_running (i := .unprepareAll .both) (p := guardPos 1) rfl ⟨rfl, by decide⟩ rfl rfl rfl
    (by intro k h; cases k <;> exact nomatch (show false = true from h)) (fun h => nomatch (show false = true from h))
    (fun h => nomatch (show false = true from h)) rfl (fun c => (hs c).1) (fun c => (hs c).2.1) (fun c => (hs c).2.2)
    (fun c => by cases c <;> exact Memory.wf_nil _) (fun h => nomatch (show Phase.guards = .body from h))
    fun _ => ⟨by decide, by decide, trivial⟩

theorem witness_step_keeps_invariant : ∃ s t : State, Inv s ∧ step s = .next t :=
  ⟨atFirst (.prepareAll .both) 0 0 yes, _, inv_at_first_prepare yes, rfl⟩

end Sys2Proof.Tests
end

section
/-! PROOFS. Attach and detach (R7, R280, R282, R283): what the step of an attach and of a detach is, when a binding is
whole, and what legal parameters say of the startup batch. -/
namespace Sys2Proof.Machine

/-! ## The binding (R22, R283) -/

theorem mem_presentCodecs (cfg : Config) (c : CodecId) : c ∈ presentCodecs cfg ↔ present cfg c = true := by
  cases c <;> simp [presentCodecs]

/-- The clocks that need a handle are the present consumer clocks, the gate and the mux. -/
theorem forall_mem_neededClocks (cfg : Config) (p : Clock → Prop) :
    (∀ k ∈ neededClocks cfg, p k) ↔
      (∀ k, clockPresent cfg k = true → p (.consumer k)) ∧ p .gate ∧ p .mux := by
  rw [neededClocks, List.forall_mem_append, List.forall_mem_map]
  simp [mem_groupBoth]

theorem bindingOk_iff (cfg : Config) (b : Binding) :
    bindingOk cfg b = true ↔
      (∀ k, clockPresent cfg k = true → Clock.consumer k ∈ b.handles) ∧ Clock.gate ∈ b.handles ∧
        Clock.mux ∈ b.handles ∧ ∀ c, present cfg c = true → c ∈ b.codecs := by
  have hclocks := forall_mem_neededClocks cfg (· ∈ b.handles)
  simp only [bindingOk, Bool.and_eq_true, List.all_eq_true, List.contains_iff_mem, hclocks, mem_presentCodecs,
    and_assoc]

/-! ## The startup batch (R184, R186) -/

/-- STARTUP_FMTCTL is the value of the last ADDR_FMTCTL write of the batch. -/
theorem startupFmtctl_last {cfg : Config} (h : configOk cfg = true) :
    ∃ pre post, cfg.startupBatch = pre ++ (cfg.addrFmtctl, startupFmtctl cfg) :: post ∧
      ∀ e ∈ post, e.1 ≠ cfg.addrFmtctl := by
  unfold startupFmtctl
  split
  · next p hp =>
    obtain ⟨haddr, post, pre, hrev, hpost⟩ := List.find?_eq_some_iff_append.mp hp
    have hp1 : p.1 = cfg.addrFmtctl := by simpa using haddr
    refine ⟨pre.reverse, post.reverse, ?_, by simpa using hpost⟩
    rw [← hp1, ← List.reverse_reverse cfg.startupBatch, hrev]
    simp
  · next hnone =>
    rw [List.find?_eq_none] at hnone
    exact absurd (beq_self_eq_true _) (hnone _ (List.mem_reverse.mpr (startupFmtctl_mem h)))

/-- Every attenuation MSB write of the batch latches, and comes after a write of its channel's LSB register. -/
theorem startupBatch_latches {cfg : Config} (h : configOk cfg = true) {pre post : List (Nat × Nat)} {v : Nat}
    (ch : Channel) (hb : cfg.startupBatch = pre ++ (addrAttMsb cfg ch, v) :: post) :
    v &&& cfg.latchMask ≠ 0 ∧ ∃ e ∈ pre, e.1 = addrAttLsb cfg ch := by
  obtain ⟨-, -, -, -, hch0, hch1⟩ := configOk_batch h
  have horder : latchOrderOk cfg.latchMask (addrAttLsb cfg ch) (addrAttMsb cfg ch) false cfg.startupBatch = true := by
    cases ch
    · exact hch0
    · exact hch1
  obtain ⟨hlatch, hlsb⟩ := latchOrderOk_split horder hb
  exact ⟨hlatch, hlsb.resolve_left Bool.false_ne_true⟩

/-! ## The steps -/

section Steps

variable {s : State} {rest : List HostAction}

theorem State.hostStep_of_action {a : HostAction} (hheld : s.held = none) (hact : s.host.actions = a :: rest) :
    s.hostStep = s.hostAct a rest := by
  simp only [State.hostStep, hheld, hact]

/-- A detached block has only its host (R282). -/
theorem step_of_detached (h : s.attached = false) : step s = s.hostStep := by
  simp [step, h]

/-- An idle engine waits for the host (R284). -/
theorem step_of_idle (hatt : s.attached = true) (hcfg : configOk s.cfg = true) (hidle : s.eng.busy = false) :
    step s = s.hostStep := by
  simp [step, hatt, hcfg, hidle]

/-- The host does not move past a detach while the engine is busy: the turn is the engine's (log 4). -/
theorem State.pickTurn_of_detach (hact : s.host.actions = .detach :: rest) : s.pickTurn.1 = false := by
  have hready : s.hostReady = false := by simp [State.hostReady, hact]
  unfold State.pickTurn
  split <;> simp [hready]

section Attach

variable {cfg : Config} {b : Binding} (hatt : s.attached = false) (hheld : s.held = none)
  (hact : s.host.actions = .attach cfg b :: rest)
include hatt hheld hact

/-- An attach makes a block of legal parameters with a whole binding, and is the fault of log 9 otherwise. -/
theorem step_attach :
    step s = if configOk cfg && bindingOk cfg b then .next ((s.hostDone rest).attachWith cfg)
      else .fault .configError := by
  rw [step_of_detached hatt, State.hostStep_of_action hheld hact]
  simp [State.hostAct, hatt]

theorem step_attach_eq_next_iff {t : State} :
    step s = .next t ↔ configOk cfg = true ∧ bindingOk cfg b = true ∧ t = (s.hostDone rest).attachWith cfg := by
  rw [step_attach hatt hheld hact]
  split
  · next h =>
    rw [Bool.and_eq_true] at h
    simp [h, eq_comm]
  · next h => simpa using fun hc hb => absurd (by simp [hc, hb]) h

theorem step_attach_eq_fault (h : configOk cfg = false ∨ ¬ bindingOk cfg b = true) :
    step s = .fault .configError := by
  rw [step_attach hatt hheld hact]
  rcases h with h | h <;> simp [h]

end Attach

/-- A detach of an idle block discards it (R282). -/
theorem State.hostStep_detach_of_idle (hatt : s.attached = true) (hheld : s.held = none)
    (hact : s.host.actions = .detach :: rest) (hidle : s.eng.busy = false) :
    s.hostStep = .next (s.hostDone rest).detached := by
  rw [State.hostStep_of_action hheld hact]
  simp [State.hostAct, hatt, hidle]

/-- A detach stays where it is while the engine is busy (R282). -/
theorem State.hostStep_detach_of_busy (hatt : s.attached = true) (hheld : s.held = none)
    (hact : s.host.actions = .detach :: rest) (hbusy : s.eng.busy = true) : s.hostStep = .next s := by
  rw [State.hostStep_of_action hheld hact]
  simp [State.hostAct, hatt, hbusy]

end Steps

/-- Settles O14: the step of an attach by its equation, the binding by `bindingOk_iff`, each constraint of R7 by the
lemma that reads it off `configOk`. -/
theorem attachRefusesParametersThatViolateTheConstraints :
    Obligations.AttachRefusesParametersThatViolateTheConstraints := by
  unfold Obligations.AttachRefusesParametersThatViolateTheConstraints
  refine ⟨fun s cfg b rest hatt hheld hact => ?_,
    fun s rest hatt hcfg hheld hact => ⟨fun hidle => ?_, fun hbusy => ?_⟩⟩
  · intro whole
    have hwhole : bindingOk cfg b = true ↔ whole := bindingOk_iff cfg b
    refine ⟨fun h => ?_, fun hc hw => ?_, fun t ht => ?_⟩
    · exact step_attach_eq_fault hatt hheld hact (h.imp_right (mt hwhole.mp))
    · exact ⟨_, (step_attach_eq_next_iff hatt hheld hact).mpr ⟨hc, hwhole.mpr hw, rfl⟩⟩
    · obtain ⟨hc, hb, rfl⟩ := (step_attach_eq_next_iff hatt hheld hact).mp ht
      obtain ⟨-, hlsb, hmsb, -⟩ := configOk_widths hc
      obtain ⟨latchBit, hlatch, habove, -⟩ := configOk_latch hc
      obtain ⟨hpd, hdisjoint, -, -⟩ := configOk_power hc
      obtain ⟨hfixed, henum, hbatchAddr, hresetAddr⟩ := configOk_addrs hc
      obtain ⟨hbatchVal, hresetVal, -, hpdSet, -, -⟩ := configOk_batch hc
      obtain ⟨hmux, hfmt16, hfmt32⟩ := configOk_codes hc
      obtain ⟨pre, post, hsplit, hlast⟩ := startupFmtctl_last hc
      have haddrs : ∀ a ∈ fixedAddrs cfg ++ [cfg.enumAnticlip.addr, cfg.enumDither.addr, cfg.enumFilter.addr],
          a < 2 ^ cfg.regAddrBits := by
        rw [List.forall_mem_append]
        exact ⟨hfixed, by simpa using ⟨(henum .anticlip).1, (henum .dither).1, (henum .filter).1⟩⟩
      exact ⟨hwhole.mp hb, rfl, rfl, rfl, rfl, rfl, rfl, rfl, rfl, hlsb, hmsb, ⟨latchBit, hlatch, habove⟩, hpd,
        hdisjoint, haddrs, fun e he => ⟨hbatchAddr e he, hbatchVal e he⟩,
        fun e he => ⟨hresetAddr e he, hresetVal e he⟩, configOk_distinct hc, fun d => (henum d).2,
        (configOk_enum hc .anticlip).1, (configOk_enum hc .dither).1, (configOk_enum hc .filter).1,
        fun d => (configOk_enum hc d).2, hmux, hfmt16, hfmt32,
        ⟨pre, startupFmtctl cfg, post, hsplit, hlast, hpdSet⟩,
        fun _ ch _ _ hsplit => startupBatch_latches hc ch hsplit⟩
  · rw [step_of_idle hatt hcfg hidle, State.hostStep_detach_of_idle hatt hheld hact hidle]
    exact ⟨_, rfl, rfl, rfl, rfl, rfl, rfl, rfl, rfl, rfl, rfl⟩
  · exact ⟨State.hostStep_detach_of_busy hatt hheld hact hbusy, State.pickTurn_of_detach hact⟩

end Sys2Proof.Machine
end

section
/-! PROOFS. One engine step, said once for all commands (R10, R35, R123, R126): a step holds, acts and moves its
position forward, or acts and ends the command. What a step keeps, and where it goes, is read off from that. -/
namespace Sys2Proof.Machine

variable {i : Instr} {s t x : State}

/-! ## What a step does before it moves -/

/-- The commands that return a value in DATA (R40). -/
def returnsData : Instr → Prop
  | .getVolume _ _ => True
  | .readSynced _ _ => True
  | _ => False

/-- The commands that make several requests for one element (R155, R156, R187, R191, R192). -/
def severalRequests : Instr → Prop
  | .selectMaster => True
  | .releaseMaster => True
  | .applyStartup _ => True
  | .setVolume _ _ => True
  | .getVolume _ _ => True
  | _ => False

/-- The gate, the mux and the settle wait are as before (R26 to R29). -/
def masterPartKept (c c' : ClockState) : Prop :=
  c'.gatePrepared = c.gatePrepared ∧ c'.gateEnabled = c.gateEnabled ∧
  c'.masterClockEnabled = c.masterClockEnabled ∧ c'.muxSel = c.muxSel ∧ c'.settlePending = c.settlePending

/-- What command i leaves alone of the clock state (R149): a group command the master clock, a master clock command
the consumer clocks, a codec command everything. -/
def clocksKept (i : Instr) (c c' : ClockState) : Prop :=
  match i with
  | .prepareAll _ => masterPartKept c c'
  | .enableAll _ => masterPartKept c c'
  | .disableAll _ => masterPartKept c c'
  | .unprepareAll _ => masterPartKept c c'
  | .selectMaster => ∀ k, c'.flags k = c.flags k
  | .releaseMaster => ∀ k, c'.flags k = c.flags k
  | _ => c' = c

theorem masterPartKept_refl (c : ClockState) : masterPartKept c c := ⟨rfl, rfl, rfl, rfl, rfl⟩

theorem clocksKept_refl (i : Instr) (c : ClockState) : clocksKept i c c := by
  cases i with
  | prepareAll g | enableAll g | disableAll g | unprepareAll g => exact masterPartKept_refl c
  | selectMaster | releaseMaster => exact fun _ => rfl
  | _ => rfl

theorem masterPartKept_setPrepared {c c' : ClockState} (h : masterPartKept c c') (k : Consumer) (b : Bool) :
    masterPartKept c (c'.setPrepared k b) := by
  simpa [masterPartKept] using h

theorem masterPartKept_setEnabled {c c' : ClockState} (h : masterPartKept c c') (k : Consumer) (b : Bool) :
    masterPartKept c (c'.setEnabled k b) := by
  simpa [masterPartKept] using h

/-- From s to x a step of command i made its request and its updates, and has still to move or to end. -/
structure Acted (i : Instr) (s x : State) : Prop where
  host     : hostSideKept s x
  busy     : stillBusy s x
  place    : x.position.phase = s.position.phase ∧ x.position.elem = s.position.elem ∧
    x.position.req = s.position.req
  glitch   : s.win.glitchRisk = true → x.win.glitchRisk = true
  teardown : s.win.teardownFault = true → x.win.teardownFault = true
  data     : x.win.data = s.win.data
  clocks   : clocksKept i s.clk x.clk

namespace Acted

theorem refl (i : Instr) (s : State) : Acted i s s :=
  ⟨⟨rfl, rfl, rfl, rfl, rfl, rfl, rfl, rfl⟩, ⟨rfl, rfl, rfl, rfl⟩, ⟨rfl, rfl, rfl⟩, id, id, rfl,
    clocksKept_refl i s.clk⟩

theorem env (h : Acted i s x) (e : Environment) : Acted i s { x with env := e } :=
  ⟨h.host, h.busy, h.place, h.glitch, h.teardown, h.data, h.clocks⟩

theorem now (h : Acted i s x) (ms : Nat) : Acted i s { x with now := ms } :=
  ⟨h.host, h.busy, h.place, h.glitch, h.teardown, h.data, h.clocks⟩

theorem record (h : Acted i s x) (e : Event) : Acted i s (x.record e) :=
  ⟨h.host, h.busy, h.place, h.glitch, h.teardown, h.data, h.clocks⟩

theorem onCodec (h : Acted i s x) (c : CodecId) (f : CodecState → CodecState) : Acted i s (x.onCodec c f) :=
  ⟨h.host, h.busy, h.place, h.glitch, h.teardown, h.data, h.clocks⟩

theorem afterWriteReg (h : Acted i s x) (c : CodecId) (a v : Nat) (d : Answer) :
    Acted i s (x.afterWriteReg c a v d) :=
  ⟨h.host, h.busy, h.place, h.glitch, h.teardown, h.data, h.clocks⟩

theorem flagGlitch (h : Acted i s x) : Acted i s x.flagGlitch :=
  ⟨h.host, h.busy, h.place, fun _ => rfl, h.teardown, h.data, h.clocks⟩

theorem flagTeardown (h : Acted i s x) : Acted i s x.flagTeardown :=
  ⟨h.host, h.busy, h.place, h.glitch, fun _ => rfl, h.data, h.clocks⟩

/-- GLITCH_RISK is set where a codec was up (R137). -/
theorem flagGlitchIf (h : Acted i s x) (b : Bool) : Acted i s (if b then x.flagGlitch else x) := by
  cases b
  · exact h
  · exact h.flagGlitch

theorem onClk (h : Acted i s x) {f : ClockState → ClockState} (hf : clocksKept i s.clk (f x.clk)) :
    Acted i s (x.onClk f) :=
  ⟨h.host, h.busy, h.place, h.glitch, h.teardown, h.data, hf⟩

/-- A step notes a local variable of its pseudocode (log 22). -/
theorem note (h : Acted i s x) (f : Position → Position)
    (hf : ∀ p, (f p).phase = p.phase ∧ (f p).elem = p.elem ∧ (f p).req = p.req) : Acted i s (x.goTo f) := by
  obtain ⟨hphase, helem, hreq⟩ := h.place
  obtain ⟨fphase, felem, freq⟩ := hf x.position
  exact ⟨h.host, h.busy, ⟨fphase.trans hphase, felem.trans helem, freq.trans hreq⟩, h.glitch, h.teardown, h.data,
    h.clocks⟩

end Acted

/-! ## Where a step can go -/

/-- The positions that a step of command i at s can move to (R10, R35, R127). -/
inductive Advances (i : Instr) (s : State) (q : Position) : Prop
  | enterGuards (hp : s.position.phase = .start) (checked : firstCheckPassed s i) (guarded : guardsOf s i ≠ [])
      (phase : q.phase = .guards) (elem : q.elem = 0)
  | nextGuard (g : GuardCheck) (hp : s.position.phase = .guards) (hg : (guardsOf s i)[s.position.elem]? = some g)
      (pass : g.fails = false) (more : s.position.elem + 1 < (guardsOf s i).length)
      (phase : q.phase = .guards) (elem : q.elem = s.position.elem + 1)
  | startBody (hp : s.position.phase = .start) (checked : firstCheckPassed s i) (unguarded : guardsOf s i = [])
      (phase : q.phase = .body) (elem : q.elem = 0) (req : q.req = 0)
  | guardsToBody (g : GuardCheck) (hp : s.position.phase = .guards)
      (hg : (guardsOf s i)[s.position.elem]? = some g) (pass : g.fails = false)
      (last : ¬ s.position.elem + 1 < (guardsOf s i).length)
      (phase : q.phase = .body) (elem : q.elem = 0) (req : q.req = 0)
  | nextReq (hp : s.position.phase = .body) (several : severalRequests i)
      (phase : q.phase = .body) (elem : q.elem = s.position.elem) (req : q.req = s.position.req + 1)
  | nextElem (hp : s.position.phase = .body)
      (phase : q.phase = .body) (elem : q.elem = s.position.elem + 1) (req : q.req = 0)

/-- What one engine step of command i can do (R123, R126). -/
inductive StepShape (i : Instr) (s t : State) : Prop
  | held (e : Environment) (h : t = { s with env := e })
  | moved (x : State) (q : Position) (acted : Acted i s x) (ahead : Advances i s q) (h : t = x.goTo fun _ => q)
  | ended (x : State) (code : Code) (id addr : Nat) (acted : Acted i s x) (h : t = x.raise code id addr)
  | returned (x : State) (v : Nat) (acted : Acted i s x) (returns : returnsData i) (h : t = (x.setData v).finish)

namespace StepShape

/-! ### The shared operations -/

theorem finish (hx : Acted i s x) : StepShape i s x.finish := .ended x _ _ _ hx rfl

theorem raise (hx : Acted i s x) (code : Code) (id addr : Nat) : StepShape i s (x.raise code id addr) :=
  .ended x _ _ _ hx rfl

theorem nextReq (hx : Acted i s x) (hp : s.position.phase = .body) (hi : severalRequests i) :
    StepShape i s x.nextReq := by
  obtain ⟨hphase, helem, hreq⟩ := hx.place
  exact .moved x { x.position with req := x.position.req + 1 } hx
    (.nextReq hp hi (hphase.trans hp) helem (congrArg (· + 1) hreq)) rfl

theorem nextElem (hx : Acted i s x) (hp : s.position.phase = .body) {n : Nat} {last : State → State}
    (hlast : StepShape i s (last x)) : StepShape i s (x.nextElem n last) := by
  obtain ⟨hphase, helem, -⟩ := hx.place
  exact State.nextElem_elim (P := StepShape i s)
    (fun _ => .moved x { x.position with elem := x.position.elem + 1, req := 0 } hx
      (.nextElem hp (hphase.trans hp) (congrArg (· + 1) helem) rfl) rfl) fun _ => hlast

/-- A command without a first check and guard loops goes from its start to its body. -/
theorem enterBody (hx : Acted i s x) (hp : s.position.phase = .start) {n : Nat}
    (hc : firstCheckPassed s i := by exact trivial) (hg : guardsOf s i = [] := by rfl) :
    StepShape i s (x.enterBody n) :=
  State.enterBody_elim (P := StepShape i s) (fun _ => finish hx)
    fun _ => .moved x _ hx (.startBody hp hc hg rfl rfl rfl) rfl

theorem enterGuards (hp : s.position.phase = .start) (hc : firstCheckPassed s i) {n : Nat} :
    StepShape i s (s.enterGuards (guardsOf s i) n) :=
  State.enterGuards_elim (P := StepShape i s) (fun hg => enterBody (.refl i s) hp hc hg)
    fun hg => .moved s _ (.refl i s) (.enterGuards hp hc hg rfl rfl) rfl

theorem guardStep (hp : s.position.phase = .guards) {n : Nat} :
    StepShape i s (s.guardStep (guardsOf s i) n) :=
  State.guardStep_elim (P := StepShape i s) (fun _ _ _ => raise (.refl i s) _ _ _)
    (fun g hg pass more => .moved s { s.position with elem := s.position.elem + 1, req := 0 } (.refl i s)
      (.nextGuard g hp hg pass more hp rfl) rfl)
    (fun g hg pass last => State.enterBody_elim (P := StepShape i s) (fun _ => finish (.refl i s))
      fun _ => .moved s _ (.refl i s) (.guardsToBody g hp hg pass last rfl rfl rfl) rfl)
    fun _ => finish (.refl i s)

theorem atElem {α : Type} {l : List α} {f : α → State} (h : ∀ a, StepShape i s (f a)) :
    StepShape i s (s.atElem l f) :=
  State.atElem_elim (P := StepShape i s) (fun a _ => h a) fun _ => finish (.refl i s)

theorem ifThenElse {p : Prop} [Decidable p] {u v : State} (hu : p → StepShape i s u) (hv : ¬p → StepShape i s v) :
    StepShape i s (if p then u else v) := by
  split
  · next hp => exact hu hp
  · next hp => exact hv hp

theorem awaitAnswer {k : Answer → State → State} (h : ∀ d x, Acted i s x → StepShape i s (k d x)) :
    StepShape i s (s.awaitAnswer k) :=
  State.awaitAnswer_elim (P := StepShape i s) (fun e => .held e rfl) fun d e => h d _ ((Acted.refl i s).env e)

theorem clkReq {op : ClkOp} {k : Clock} {cont : Bool → State → State}
    (h : ∀ ok x, Acted i s x → StepShape i s (cont ok x)) : StepShape i s (s.clkReq op k cont) :=
  awaitAnswer fun _ _ hx => h _ _ (hx.record _)

theorem startReq {op : ClkOp} {k : Clock} {code : Code} {onOk : State → State}
    (h : ∀ x, Acted i s x → StepShape i s (onOk x)) : StepShape i s (s.startReq op k code onOk) :=
  clkReq fun _ x hx => ifThenElse (fun _ => h x hx) fun _ => raise hx _ _ _

theorem teardownReq {op : ClkOp} {k : Clock} {done : State → State}
    (h : ∀ x, Acted i s x → StepShape i s (done x)) : StepShape i s (s.teardownReq op k done) :=
  clkReq fun ok x hx => h _ (by
    cases ok
    · exact hx.flagTeardown
    · exact hx)

theorem writeReg {c : CodecId} {a v : Nat} {cont : Bool → State → State}
    (h : ∀ ok x, Acted i s x → StepShape i s (cont ok x)) : StepShape i s (s.writeReg c a v cont) :=
  State.writeReg_elim (P := StepShape i s) (fun e => .held e rfl)
    fun _ e => h _ _ (((Acted.refl i s).env e).afterWriteReg c a v _)

theorem rmw {c : CodecId} {a clear set : Nat} {cont : Bool → State → State}
    (h : ∀ ok x, Acted i s x → StepShape i s (cont ok x)) : StepShape i s (s.rmw c a clear set cont) :=
  State.rmw_elim (P := StepShape i s) (fun _ => raise (.refl i s) _ _ _) (fun _ _ e => .held e rfl)
    fun _ _ _ e => h _ _ (((Acted.refl i s).env e).afterWriteReg c a _ _)

theorem readReg {c : CodecId} {a : Nat} {cont : Nat → State → State}
    (h : ∀ v x, Acted i s x → StepShape i s (cont v x)) : StepShape i s (s.readReg c a cont) :=
  awaitAnswer fun _ _ hx => ifThenElse (fun _ => h _ _ (hx.record _)) fun _ => raise (hx.record _) _ _ _

theorem byPhase {checks body : State → State} (h : s.byPhase checks body = .next t)
    (atStart : s.position.phase = .start → StepShape i s (checks s))
    (inBody : s.position.phase = .body → StepShape i s (body s)) : StepShape i s t :=
  State.byPhase_elim (P := StepShape i s) h atStart inBody fun _ => finish (.refl i s)

theorem byGuards {first : Option State} {n : Nat} {body : State → State}
    (h : s.byGuards first (guardsOf s i) n body = .next t)
    (refused : ∀ x, first = some x → StepShape i s x) (checked : first = none → firstCheckPassed s i)
    (inBody : s.position.phase = .body → StepShape i s (body s)) : StepShape i s t :=
  State.byGuards_elim (P := StepShape i s) h (fun x _ hx => refused x hx) (fun hp hn => enterGuards hp (checked hn))
    (fun hp => guardStep hp) inBody

end StepShape

/-! ## The commands -/

theorem execPrepareAll_shape {g : Group} (h : exec (.prepareAll g) s = .next t) :
    StepShape (.prepareAll g) s t := by
  simp only [exec, execPrepareAll] at h
  exact .byPhase h (fun hp => .enterBody (.refl _ s) hp) fun hp => .atElem fun k =>
    .ifThenElse (fun _ => .nextElem (.refl _ s) hp (.finish (.refl _ s))) fun _ => .startReq fun _ hx =>
      have hx := hx.onClk (f := (·.setPrepared k true)) (masterPartKept_setPrepared hx.clocks k true)
      .nextElem hx hp (.finish hx)

theorem execEnableAll_shape {g : Group} (h : exec (.enableAll g) s = .next t) : StepShape (.enableAll g) s t := by
  simp only [exec, execEnableAll] at h
  exact .byGuards h (fun _ hx => nomatch hx) (fun _ => trivial) fun hp => .atElem fun k =>
    .ifThenElse (fun _ => .nextElem (.refl _ s) hp (.finish (.refl _ s))) fun _ => .startReq fun _ hx =>
      have hx := hx.onClk (f := (·.setEnabled k true)) (masterPartKept_setEnabled hx.clocks k true)
      .nextElem hx hp (.finish hx)

theorem execDisableAll_shape {g : Group} (h : exec (.disableAll g) s = .next t) :
    StepShape (.disableAll g) s t := by
  simp only [exec, execDisableAll] at h
  have hup := (Acted.refl (.disableAll g) s).note (fun p => { p with up := s.anyUp }) fun _ => ⟨rfl, rfl, rfl⟩
  exact .byPhase h (fun hp => .enterBody hup hp) fun hp => .atElem fun k =>
      .ifThenElse (fun _ => .teardownReq fun x hx =>
        have hx := (hx.flagGlitchIf x.position.up).onClk (f := (·.setEnabled k false))
          (masterPartKept_setEnabled (hx.flagGlitchIf _).clocks k false)
        .nextElem hx hp (.finish hx)) fun _ => .nextElem (.refl _ s) hp (.finish (.refl _ s))

theorem execUnprepareAll_shape {g : Group} (h : exec (.unprepareAll g) s = .next t) :
    StepShape (.unprepareAll g) s t := by
  simp only [exec, execUnprepareAll] at h
  exact .byGuards h (fun _ hx => nomatch hx) (fun _ => trivial) fun hp => .atElem fun k =>
    .ifThenElse (fun _ => .teardownReq fun _ hx =>
      have hx := hx.onClk (f := (·.setPrepared k false)) (masterPartKept_setPrepared hx.clocks k false)
      .nextElem hx hp (.finish hx)) fun _ => .nextElem (.refl _ s) hp (.finish (.refl _ s))

theorem execSelectMaster_shape (h : exec .selectMaster s = .next t) : StepShape .selectMaster s t := by
  simp only [exec, execSelectMaster] at h
  refine .byPhase h (fun hp => ?_) fun hp => ?_
  · split
    · exact .raise (.refl _ s) _ _ _
    · exact .ifThenElse (fun _ => .raise (.refl _ s) _ _ _) fun _ => .enterBody (.refl _ s) hp
  · split
    · exact .raise (.refl _ s) _ _ _
    · next src _ _ =>
      exact .clkReq fun _ _ hx => .ifThenElse
        (fun _ => .nextReq (hx.onClk (f := fun c => { c with muxSel := some src }) hx.clocks) hp trivial)
        fun _ => .raise (hx.onClk (f := fun c => { c with muxSel := none }) hx.clocks) _ _ _
    · exact .startReq fun _ hx =>
        .nextReq (hx.onClk (f := fun c => { c with gatePrepared := true }) hx.clocks) hp trivial
    · exact .startReq fun _ hx => .nextReq
        ((hx.onClk (f := fun c => { c with gateEnabled := true, settlePending := true }) hx.clocks).record _)
        hp trivial
    · exact .awaitAnswer fun _ _ hx => .finish (((hx.now _).record _).onClk
        (f := fun c => { c with settlePending := false, masterClockEnabled := true }) hx.clocks)

theorem execReleaseMaster_shape (h : exec .releaseMaster s = .next t) : StepShape .releaseMaster s t := by
  simp only [exec, execReleaseMaster] at h
  refine .byPhase h (fun hp => ?_) fun hp => ?_
  · have hx := (Acted.refl .releaseMaster s).note (fun p => { p with up := s.anyUp }) fun _ => ⟨rfl, rfl, rfl⟩
    exact .enterBody (hx.onClk (f := fun c => { c with masterClockEnabled := false }) hx.clocks) hp
  · split
    · exact .ifThenElse (fun _ => .teardownReq fun x hx => .nextReq ((hx.flagGlitchIf x.position.up).onClk
          (f := fun c => { c with gateEnabled := false }) (hx.flagGlitchIf _).clocks) hp trivial)
        fun _ => .nextReq (.refl _ s) hp trivial
    · exact .ifThenElse (fun _ => .teardownReq fun _ hx =>
          .finish (hx.onClk (f := fun c => { c with gatePrepared := false }) hx.clocks))
        fun _ => .finish (.refl _ s)

theorem execApplyStartup_shape {cs : CodecSet} (h : exec (.applyStartup cs) s = .next t) :
    StepShape (.applyStartup cs) s t := by
  simp only [exec, execApplyStartup] at h
  refine .byGuards h (fun _ hx => nomatch hx) (fun _ => trivial) fun hp => .atElem fun c => ?_
  split
  · exact .nextReq ((Acted.refl _ s).onCodec _ _) hp trivial
  · split
    · exact .nextElem (.refl _ s) hp (.finish (.refl _ s))
    · exact .writeReg fun _ _ hx => .ifThenElse
        (fun _ => .ifThenElse (fun _ => .nextReq hx hp trivial) fun _ => .nextElem hx hp (.finish hx))
        fun _ => .raise hx _ _ _

theorem execSetFmtSysclk_shape {cs : CodecSet} (h : exec (.setFmtSysclk cs) s = .next t) :
    StepShape (.setFmtSysclk cs) s t := by
  simp only [exec, execSetFmtSysclk] at h
  refine .byGuards h (fun x hx => ?_) (fun hn => ?_) fun hp => .atElem fun c => .rmw fun _ _ hx => .ifThenElse
    (fun _ => .nextElem (hx.onCodec _ _) hp (.finish (hx.onCodec _ _))) fun _ => .raise hx _ _ _
  · have hraise : x = s.raise .invalidOperand 0 0 := by
      split at hx
      · exact (Option.some.inj hx).symm
      · split at hx
        · exact (Option.some.inj hx).symm
        · exact nomatch hx
    rw [hraise]
    exact .raise (.refl _ s) _ _ _
  · split at hn
    · exact nomatch hn
    · next hrate =>
      split at hn
      · exact nomatch hn
      · next hmask => exact ⟨by simpa using hrate, by simpa using hmask⟩

theorem execPowerUp_shape {cs : CodecSet} (h : exec (.powerUp cs) s = .next t) : StepShape (.powerUp cs) s t := by
  simp only [exec, execPowerUp] at h
  refine .byGuards h (fun x hx => ?_) (fun hn => ?_) fun hp => .atElem fun c => .rmw fun _ _ hx => .ifThenElse
    (fun _ => .nextElem hx hp (.finish hx)) fun _ => .raise hx _ _ _
  · split at hx
    · rw [← Option.some.inj hx]
      exact .raise (.refl _ s) _ _ _
    · exact nomatch hx
  · split at hn
    · exact nomatch hn
    · next hready => exact (Bool.not_eq_false _).mp fun hm => hready (by simp [State.masterReady, hm])

theorem endPowerDown_shape (hx : Acted i s x) : StepShape i s x.endPowerDown :=
  State.endPowerDown_elim (P := StepShape i s) (fun _ _ => .raise hx _ _ _) fun _ => .raise hx _ _ _

theorem execPowerDown_shape {cs : CodecSet} (h : exec (.powerDown cs) s = .next t) :
    StepShape (.powerDown cs) s t := by
  simp only [exec, execPowerDown] at h
  refine .byPhase h (fun hp => .enterBody (.refl _ s) hp) fun hp => .atElem fun c => .writeReg fun ok x hx => ?_
  have hnoted : Acted (.powerDown cs) s
      (if ok then x else x.goTo fun p => { p with first := p.first.or (some c) }) := by
    cases ok
    · exact hx.note (fun p => { p with first := p.first.or (some c) }) fun _ => ⟨rfl, rfl, rfl⟩
    · exact hx
  exact .nextElem (hnoted.onCodec _ _) hp (endPowerDown_shape (hnoted.onCodec _ _))

theorem execSetVolume_shape {c : CodecId} {ch : Channel} (h : exec (.setVolume c ch) s = .next t) :
    StepShape (.setVolume c ch) s t := by
  simp only [exec, execSetVolume] at h
  refine .byPhase h (fun hp => .ifThenElse (fun _ => .raise (.refl _ s) _ _ _) fun _ =>
    .ifThenElse (fun _ => .raise (.refl _ s) _ _ _) fun _ => .enterBody (.refl _ s) hp) fun hp => ?_
  split
  · exact .writeReg fun _ _ hx => .ifThenElse (fun _ => .nextReq hx hp trivial) fun _ => .raise hx _ _ _
  · exact .writeReg fun _ _ hx => .ifThenElse (fun _ => .finish hx) fun _ => .raise hx _ _ _

theorem execGetVolume_shape {c : CodecId} {ch : Channel} (h : exec (.getVolume c ch) s = .next t) :
    StepShape (.getVolume c ch) s t := by
  simp only [exec, execGetVolume] at h
  refine .byPhase h
    (fun hp => .ifThenElse (fun _ => .raise (.refl _ s) _ _ _) fun _ => .enterBody (.refl _ s) hp) fun hp => ?_
  split
  · exact .readReg fun _ _ hx => .nextReq (hx.note _ fun _ => ⟨rfl, rfl, rfl⟩) hp trivial
  · exact .readReg fun _ x hx => .returned x _ hx trivial rfl

theorem endReadSynced_shape (hi : returnsData i) (hx : Acted i s x) : StepShape i s x.endReadSynced :=
  .returned x _ hx hi rfl

theorem execReadSynced_shape {cs : CodecSet} {d : Control} (h : exec (.readSynced cs d) s = .next t) :
    StepShape (.readSynced cs d) s t := by
  simp only [exec, execReadSynced] at h
  refine .byPhase h (fun hp => .enterBody (.refl _ s) hp) fun hp => ?_
  split
  · refine .readReg fun v x hx => ?_
    have hx := hx.note (fun p => { p with vals := p.vals ++ [enumField x.cfg d v] }) fun _ => ⟨rfl, rfl, rfl⟩
    exact .nextElem hx hp (endReadSynced_shape trivial hx)
  · exact State.compareSynced_elim (P := StepShape (.readSynced cs d) s) (fun _ _ _ _ => .raise (.refl _ s) _ _ _)
      (fun _ _ _ _ => .nextElem (.refl _ s) hp (endReadSynced_shape trivial (.refl _ s)))
      fun _ => .finish (.refl _ s)

theorem execWriteSynced_shape {cs : CodecSet} {d : Control} (h : exec (.writeSynced cs d) s = .next t) :
    StepShape (.writeSynced cs d) s t := by
  simp only [exec, execWriteSynced] at h
  exact .byPhase h
    (fun hp => .ifThenElse (fun _ => .raise (.refl _ s) _ _ _) fun _ => .enterBody (.refl _ s) hp)
    fun hp => .atElem fun _ => .rmw fun _ _ hx =>
      .ifThenElse (fun _ => .nextElem hx hp (.finish hx)) fun _ => .raise hx _ _ _

/-- One engine step of any command. -/
theorem exec_shape (h : exec i s = .next t) : StepShape i s t := by
  cases i with
  | prepareAll g => exact execPrepareAll_shape h
  | enableAll g => exact execEnableAll_shape h
  | disableAll g => exact execDisableAll_shape h
  | unprepareAll g => exact execUnprepareAll_shape h
  | selectMaster => exact execSelectMaster_shape h
  | releaseMaster => exact execReleaseMaster_shape h
  | applyStartup cs => exact execApplyStartup_shape h
  | setFmtSysclk cs => exact execSetFmtSysclk_shape h
  | powerUp cs => exact execPowerUp_shape h
  | powerDown cs => exact execPowerDown_shape h
  | setVolume c ch => exact execSetVolume_shape h
  | getVolume c ch => exact execGetVolume_shape h
  | readSynced cs d => exact execReadSynced_shape h
  | writeSynced cs d => exact execWriteSynced_shape h

end Sys2Proof.Machine
end

section
/-! PROOFS. What follows for every command from what one engine step does: the position (R35), DATA (R40), the shadow
map (R33) and the consumer clocks (R24, R157). -/
namespace Sys2Proof.Machine

variable {i : Instr} {s t x : State}

/-! ## What a step keeps, whatever the command -/

namespace StepShape

/-- Whatever it does, a step keeps the host's side, what `clocksKept` names of the clocks, and a flag that is set. -/
theorem kept (h : StepShape i s t) : Machine.hostSideKept s t ∧ Machine.clocksKept i s.clk t.clk ∧
    (s.win.glitchRisk = true → t.win.glitchRisk = true) ∧
    (s.win.teardownFault = true → t.win.teardownFault = true) := by
  rcases h with ⟨e, rfl⟩ | ⟨x, q, hx, -, rfl⟩ | ⟨x, code, id, addr, hx, rfl⟩ | ⟨x, v, hx, -, rfl⟩
  · have hx := (Acted.refl i s).env e
    exact ⟨hx.host, hx.clocks, hx.glitch, hx.teardown⟩
  · exact ⟨hx.host, hx.clocks, hx.glitch, hx.teardown⟩
  · exact ⟨hx.host, hx.clocks, hx.glitch, hx.teardown⟩
  · exact ⟨hx.host, hx.clocks, hx.glitch, hx.teardown⟩

theorem hostSideKept (h : StepShape i s t) : Machine.hostSideKept s t := h.kept.1

theorem clocksKept (h : StepShape i s t) : Machine.clocksKept i s.clk t.clk := h.kept.2.1

theorem flagsSticky (h : StepShape i s t) : (s.win.glitchRisk = true → t.win.glitchRisk = true) ∧
    (s.win.teardownFault = true → t.win.teardownFault = true) := h.kept.2.2

/-- A step holds, moves the position ahead, or ends the command; STATUS is written only at the end (R126). -/
theorem outcome (h : StepShape i s t) :
    (∃ e, t = { s with env := e }) ∨
    (stillBusy s t ∧ ∃ q, t.eng.step = some q ∧ Advances i s q) ∨
    ∃ code id addr, t.endedWith code id addr := by
  rcases h with ⟨e, rfl⟩ | ⟨x, q, hx, hq, rfl⟩ | ⟨x, code, id, addr, hx, rfl⟩ | ⟨x, v, hx, -, rfl⟩
  · exact .inl ⟨e, rfl⟩
  · exact .inr (.inl ⟨hx.busy, q, rfl, hq⟩)
  · exact .inr (.inr ⟨_, _, _, x.raise_endedWith code id addr⟩)
  · exact .inr (.inr ⟨_, _, _, (x.setData v).raise_endedWith .ok 0 0⟩)

/-- DATA is written only together with an end OK (R40). -/
theorem dataWritten (h : StepShape i s t) (hne : t.win.data ≠ s.win.data) :
    returnsData i ∧ t.endedWith .ok 0 0 := by
  rcases h with ⟨e, rfl⟩ | ⟨x, q, hx, -, rfl⟩ | ⟨x, code, id, addr, hx, rfl⟩ | ⟨x, v, hx, hi, rfl⟩
  · exact absurd rfl hne
  · exact absurd hx.data hne
  · exact absurd hx.data hne
  · exact ⟨hi, (x.setData v).raise_endedWith .ok 0 0⟩

end StepShape

/-- A move is never backward (R35). -/
theorem Advances.forward {q : Position} (h : Advances i s q) :
    (s.position.phase = .start ∧ q.phase ≠ .start) ∨ (s.position.phase = .guards ∧ q.phase = .body) ∨
      (s.position.phase = q.phase ∧
        (s.position.elem < q.elem ∨ (s.position.elem = q.elem ∧ s.position.req < q.req))) := by
  cases h with
  | enterGuards hp _ _ phase _ => exact .inl ⟨hp, by simp [phase]⟩
  | startBody hp _ _ phase _ _ => exact .inl ⟨hp, by simp [phase]⟩
  | guardsToBody _ hp _ _ _ phase _ _ => exact .inr (.inl ⟨hp, phase⟩)
  | nextGuard _ hp _ _ _ phase elem => exact .inr (.inr ⟨hp.trans phase.symm, .inl (by omega)⟩)
  | nextReq hp _ phase elem req => exact .inr (.inr ⟨hp.trans phase.symm, .inr ⟨elem.symm, by omega⟩⟩)
  | nextElem hp phase elem _ => exact .inr (.inr ⟨hp.trans phase.symm, .inl (by omega)⟩)

theorem returnsData_iff (i : Instr) :
    returnsData i ↔ (∃ c ch, i = .getVolume c ch) ∨ ∃ cs d, i = .readSynced cs d := by
  cases i <;> simp [returnsData]

/-- Settles O36: a step holds, advances or ends (`StepShape.outcome`), and an advance is forward. -/
theorem enginePositionNeverMovesBack : Obligations.EnginePositionNeverMovesBack := by
  unfold Obligations.EnginePositionNeverMovesBack
  intro i s t p _ hp h
  have hpos := State.position_of_step hp
  rcases (exec_shape h).outcome with ⟨e, rfl⟩ | ⟨hbusy, q, hq, hahead⟩ | ⟨_, _, _, hidle, hnone, -⟩
  · exact .inr ⟨⟨rfl, rfl, rfl, rfl⟩, p, hp, .inl rfl⟩
  · exact .inr ⟨hbusy, q, hq, .inr (hpos ▸ hahead.forward)⟩
  · exact .inl ⟨hnone, hidle⟩

/-- Settles O42: only the end of a command that returns data writes DATA (`StepShape.dataWritten`). -/
theorem dataIsWrittenOnlyByReadsThatEndOk : Obligations.DataIsWrittenOnlyByReadsThatEndOk := by
  unfold Obligations.DataIsWrittenOnlyByReadsThatEndOk
  intro i s t h hne
  obtain ⟨hi, hend⟩ := (exec_shape h).dataWritten hne
  exact ⟨(returnsData_iff i).mp hi, hend⟩

/-! ## The shadow map (R33) -/

theorem WroteNothing.shadow_eq (h : WroteNothing i s t) (hcfg : t.cfg = s.cfg) (c : CodecId) (a : Nat) :
    t.shadow c a = s.shadow c a := by
  obtain ⟨-, -, hkept | ⟨_, c', -, -, -, -, hcleared⟩⟩ := h
  · exact State.shadow_congr hcfg c (by rw [hkept]) a
  · refine State.shadow_congr hcfg c ?_ a
    rw [hcleared]
    split
    · next hc => rw [hc, CodecState.clearSysclk_shadow]
    · rfl

theorem WroteRegister.shadow_eq {c : CodecId} {a v : Nat} {d : Answer} (h : WroteRegister i s t c a v d)
    (hcfg : t.cfg = s.cfg) (hwf : Memory.wf (shadowDefault s.cfg) (s.codec c).shadow) (c' : CodecId) (a' : Nat) :
    t.shadow c' a' = if c' = c ∧ a' = a then (if d.ok then some v else none) else s.shadow c' a' := by
  rw [← State.afterWriteReg_shadow s c c' a a' v d hwf]
  refine State.shadow_congr (s := s.afterWriteReg c a v d) hcfg c' ?_ a'
  rw [h.codec, State.afterWriteReg_codec]
  split
  · exact (afterAnswer_kept i s d.ok _).2
  · rfl

/-- Settles O34: a step writes one register or none (`exec_registers`). -/
theorem shadowFollowsTheRecordedWrites : Obligations.ShadowFollowsTheRecordedWrites := by
  unfold Obligations.ShadowFollowsTheRecordedWrites
  intro i s t c a hsound h
  have hcfg : t.cfg = s.cfg := (exec_shape h).hostSideKept.1
  rcases exec_registers h with hnone | ⟨c', a', v, d, hwrote⟩
  · exact .inl (hnone.shadow_eq hcfg c a)
  · have hshadow := hwrote.shadow_eq hcfg (hsound c').1 c a
    by_cases hca : c = c' ∧ a = a'
    · obtain ⟨rfl, rfl⟩ := hca
      exact .inr ⟨v, d.ok, hwrote.history, by simpa using hshadow⟩
    · exact .inl (by simpa [hca] using hshadow)

/-! ## The consumer clocks (R151 to R154, R157) -/

/-- From s to t no clock moved; or, on an answer of its request op, a clock k of l that was due took the change f. -/
def clockStep (l : List Consumer) (due : Consumer → Prop) (op : ClkOp) (answer : Bool → Prop)
    (f : Consumer → ClockState → ClockState) (s t : State) : Prop :=
  t.clk = s.clk ∨ ∃ k ok, k ∈ l ∧ s.position.phase = .body ∧ due k ∧ answer ok ∧ t.clk = f k s.clk ∧
    recorded s t [.clkReq op (.consumer k) ok]

section ClockStep

variable {l : List Consumer} {due : Consumer → Prop} {op : ClkOp} {answer : Bool → Prop}
  {f : Consumer → ClockState → ClockState}

/-- The clock whose flags changed is the one that took the change. -/
theorem clockStep.moved (h : clockStep l due op answer f s t) {k : Consumer}
    (hframe : ∀ k', k ≠ k' → (f k' s.clk).flags k = s.clk.flags k) (hne : t.clk.flags k ≠ s.clk.flags k) :
    k ∈ l ∧ s.position.phase = .body ∧ due k ∧ t.clk = f k s.clk ∧
      ∃ ok, answer ok ∧ recorded s t [.clkReq op (.consumer k) ok] := by
  obtain hsame | ⟨k', ok, hmem, hbody, hdue, hok, hclk, hrec⟩ := h
  · exact absurd (by rw [hsame]) hne
  · have hk : k = k' := by
      by_contra hk
      exact hne (by rw [hclk, hframe k' hk])
    subst hk
    exact ⟨hmem, hbody, hdue, hclk, ok, hok, hrec⟩

theorem onlyStatusChanged.clk_eq (h : onlyStatusChanged s t) : t.clk = s.clk := by
  obtain ⟨-, -, hclk, -⟩ := h.kept
  exact hclk

/-- One element of a command that starts clocks (R141, R151, R152). -/
theorem clockStep_start {code : Code} {n : Nat} {b : Consumer → Bool} (hbody : s.position.phase = .body) :
    clockStep l (fun k => b k = false) op (· = true) f s
      (s.atElem l fun k => if b k then s.nextElem n State.finish
        else s.startReq op (.consumer k) code fun s => (s.onClk (f k)).nextElem n State.finish) := by
  refine State.atElem_elim (P := clockStep l _ op _ f s) (fun k hk => ?_) fun _ => .inl rfl
  split
  · exact .inl (State.nextElem_clk s n)
  · next hb =>
    exact State.startReq_elim (P := clockStep l _ op _ f s) (fun _ => .inl rfl)
      (fun _ => .inr ⟨k, true, List.mem_of_getElem? hk, hbody, by simpa using hb, rfl, by simp, by simp [recorded]⟩)
      fun _ => .inl rfl

/-- One element of a command that stops clocks (R141, R153, R154); `done` is what it does on the answer. -/
theorem clockStep_teardown {n : Nat} {b : Consumer → Bool} {done : Consumer → State → State}
    (hbody : s.position.phase = .body) (hclk : ∀ k x, (done k x).clk = f k x.clk)
    (hhistory : ∀ k x, (done k x).history = x.history) :
    clockStep l (fun k => b k = true) op (fun _ => True) f s
      (s.atElem l fun k => if b k then
          s.teardownReq op (.consumer k) fun s => (done k s).nextElem n State.finish
        else s.nextElem n State.finish) := by
  refine State.atElem_elim (P := clockStep l _ op _ f s) (fun k hk => ?_) fun _ => .inl rfl
  split
  · next hb =>
    exact State.teardownReq_elim (P := clockStep l _ op _ f s) (fun _ => .inl rfl)
      (fun _ => .inr ⟨k, true, List.mem_of_getElem? hk, hbody, hb, trivial, by simp [hclk],
        by simp [recorded, hhistory]⟩)
      fun _ => .inr ⟨k, false, List.mem_of_getElem? hk, hbody, hb, trivial, by simp [hclk],
        by simp [recorded, hhistory]⟩
  · exact .inl (State.nextElem_clk s n)

end ClockStep

theorem execPrepareAll_clk {g : Group} (h : exec (.prepareAll g) s = .next t) :
    clockStep (groupList s.cfg g) (fun k => s.clk.prepared k = false) .prepare (· = true)
      (fun k c => c.setPrepared k true) s t := by
  simp only [exec, execPrepareAll] at h
  exact State.byPhase_elim (P := clockStep _ _ _ _ _ s) h
    (fun _ => .inl (State.enterBody_onlyStatusChanged s _).clk_eq) (fun hp => clockStep_start hp) fun _ => .inl rfl

theorem execEnableAll_clk {g : Group} (h : exec (.enableAll g) s = .next t) :
    clockStep (groupList s.cfg g) (fun k => s.clk.enabled k = false) .enable (· = true)
      (fun k c => c.setEnabled k true) s t := by
  simp only [exec, execEnableAll] at h
  exact State.byGuards_elim (P := clockStep _ _ _ _ _ s) h (fun _ _ hx => nomatch hx)
    (fun _ _ => .inl (State.enterGuards_onlyStatusChanged s _ _).clk_eq)
    (fun _ => .inl (State.guardStep_onlyStatusChanged s _ _).clk_eq) fun hp => clockStep_start hp

theorem execDisableAll_clk {g : Group} (h : exec (.disableAll g) s = .next t) :
    clockStep (groupList s.cfg g).reverse (fun k => s.clk.enabled k = true) .disable (fun _ => True)
      (fun k c => c.setEnabled k false) s t := by
  simp only [exec, execDisableAll] at h
  refine State.byPhase_elim (P := clockStep _ _ _ _ _ s) h
    (fun _ => .inl (State.enterBody_onlyStatusChanged (s.goTo _) _).clk_eq) (fun hp => ?_) fun _ => .inl rfl
  exact clockStep_teardown
    (done := fun k x => (if x.position.up then x.flagGlitch else x).onClk (·.setEnabled k false)) hp (fun k x => by cases x.position.up <;> rfl) fun k x => by cases x.position.up <;> rfl

theorem execUnprepareAll_clk {g : Group} (h : exec (.unprepareAll g) s = .next t) :
    clockStep (groupList s.cfg g).reverse (fun k => s.clk.prepared k = true) .unprepare (fun _ => True)
      (fun k c => c.setPrepared k false) s t := by
  simp only [exec, execUnprepareAll] at h
  exact State.byGuards_elim (P := clockStep _ _ _ _ _ s) h (fun _ _ hx => nomatch hx)
    (fun _ _ => .inl (State.enterGuards_onlyStatusChanged s _ _).clk_eq)
    (fun _ => .inl (State.guardStep_onlyStatusChanged s _ _).clk_eq)
    fun hp => clockStep_teardown (done := fun k x => x.onClk (·.setPrepared k false)) hp (fun _ _ => rfl) fun _ _ => rfl

/-- A busy engine of a sound state has a position (R35). -/
theorem Inv.step_eq_position (hinv : Inv s) (hbusy : s.eng.busy = true) : s.eng.step = some s.position := by
  obtain ⟨hstep, -, -⟩ := hinv.engine
  obtain ⟨p, hp⟩ := Option.ne_none_iff_exists'.mp (hstep.mp hbusy)
  rw [State.position_of_step hp, hp]

/-- In a sound state the premises of the body hold in the body (R127). -/
theorem Inv.inBody (hinv : Inv s) (hruns : s.runs i) (hbody : s.position.phase = .body) :
    bodySound s s.position i :=
  (hinv.position i s.position hruns (hinv.step_eq_position hruns.1)).1 hbody

/-- Settles O37: a group command moves one clock of its group, which was due (`clockStep`); the invariant gives the
other flag; no other command moves a consumer clock. -/
theorem clocksMoveOnlyAlongTheLifecycle : Obligations.ClocksMoveOnlyAlongTheLifecycle := by
  unfold Obligations.ClocksMoveOnlyAlongTheLifecycle
  intro i s t k p0 e0 p1 e1 hinv hruns h hs ht hne
  have hmoved : t.clk.flags k ≠ s.clk.flags k := by
    rw [hs, ht]
    rintro ⟨⟩
    exact hne rfl
  have hp0 : s.clk.prepared k = p0 := congrArg Lifecycle.prepared hs
  have he0 : s.clk.enabled k = e0 := congrArg Lifecycle.enabled hs
  have hordered : e0 = true → p0 = true := he0 ▸ hp0 ▸ hinv.ordered.1 k
  have hkept := (exec_shape h).clocksKept
  have hprepared (b : Bool) (k' : Consumer) (hk : k ≠ k') : (s.clk.setPrepared k' b).flags k = s.clk.flags k := by
    rw [ClockState.setPrepared_flags, if_neg hk]
  have henabled (b : Bool) (k' : Consumer) (hk : k ≠ k') : (s.clk.setEnabled k' b).flags k = s.clk.flags k := by
    rw [ClockState.setEnabled_flags, if_neg hk]
  cases i with
  | prepareAll g =>
    obtain ⟨hmem, -, hdue, hclk, ok, rfl, hrec⟩ := (execPrepareAll_clk h).moved (hprepared true) hmoved
    rw [hclk, ClockState.setPrepared_flags, if_pos rfl, hs] at ht
    cases ht
    obtain rfl : p0 = false := hp0.symm.trans hdue
    obtain rfl : e0 = false := by simpa using hordered
    exact ⟨g, hmem, .inl ⟨rfl, rfl, hrec⟩⟩
  | enableAll g =>
    obtain ⟨hmem, hbody, hdue, hclk, ok, rfl, hrec⟩ := (execEnableAll_clk h).moved (henabled true) hmoved
    rw [hclk, ClockState.setEnabled_flags, if_pos rfl, hs] at ht
    cases ht
    obtain rfl : e0 = false := he0.symm.trans hdue
    obtain rfl : p0 = true := hp0.symm.trans (hinv.inBody hruns hbody k hmem)
    exact ⟨g, hmem, .inr (.inl ⟨rfl, rfl, hrec⟩)⟩
  | disableAll g =>
    obtain ⟨hmem, -, hdue, hclk, ok, -, hrec⟩ := (execDisableAll_clk h).moved (henabled false) hmoved
    rw [hclk, ClockState.setEnabled_flags, if_pos rfl, hs] at ht
    cases ht
    obtain rfl : e0 = true := he0.symm.trans hdue
    obtain rfl : p0 = true := hordered rfl
    exact ⟨g, List.mem_reverse.mp hmem, .inr (.inr (.inl ⟨rfl, rfl, ok, hrec⟩))⟩
  | unprepareAll g =>
    obtain ⟨hmem, hbody, hdue, hclk, ok, -, hrec⟩ := (execUnprepareAll_clk h).moved (hprepared false) hmoved
    have hmem := List.mem_reverse.mp hmem
    rw [hclk, ClockState.setPrepared_flags, if_pos rfl, hs] at ht
    cases ht
    obtain rfl : p0 = true := hp0.symm.trans hdue
    obtain rfl : e0 = false := he0.symm.trans (hinv.inBody hruns hbody k hmem)
    exact ⟨g, hmem, .inr (.inr (.inr ⟨rfl, rfl, ok, hrec⟩))⟩
  | selectMaster => exact absurd (hkept k) hmoved
  | releaseMaster => exact absurd (hkept k) hmoved
  | _ => exact absurd (congrArg (ClockState.flags · k) hkept) hmoved

end Sys2Proof.Machine
end

section
/-! PROOFS. The codec part of the invariant (R48 items 5, 7 and 8; R33, R69): what reset gives, and what a step keeps
of it, from what a step does to the codec registers (`exec_registers`). -/
namespace Sys2Proof.Machine

/-! ## One codec -/

/-- The invariants of one codec (R32, R33, R48 items 5 and 8), said of its own state. -/
structure CodecSound (cfg : Config) (x : CodecState) : Prop where
  sysclk : sysclkSound x
  down   : x.pd = .down →
    ∃ v, Memory.read (shadowDefault cfg) x.shadow cfg.addrFmtctl = some v ∧ v &&& cfg.pdMask ≠ 0
  up     : x.pd = .up →
    ∃ v, Memory.read (shadowDefault cfg) x.shadow cfg.addrFmtctl = some v ∧ v &&& cfg.pdMask = 0
  wf     : Memory.wf (shadowDefault cfg) x.shadow
  range  : ∀ a v, Memory.read (shadowDefault cfg) x.shadow a = some v → v < 2 ^ cfg.regDataBits

variable {cfg : Config} {x : CodecState}

/-- What the shadow reads after a write (R142). -/
theorem CodecState.read_afterWrite (hwf : Memory.wf (shadowDefault cfg) x.shadow) (a v : Nat) (ok : Bool) (b : Nat) :
    Memory.read (shadowDefault cfg) (CodecState.afterWrite cfg a v ok x).shadow b =
      if b = a then (if ok then some v else none) else Memory.read (shadowDefault cfg) x.shadow b := by
  rw [CodecState.afterWrite_shadow]
  by_cases hb : b = a
  · rw [if_pos hb, hb, Memory.read_write_same _ hwf]
  · rw [if_neg hb, Memory.read_write_ne _ _ _ hb]

/-- After a successful write of ADDR_FMTCTL the power state is known (R142). -/
theorem CodecState.afterWrite_pd_known (cfg : Config) (v : Nat) (x : CodecState) :
    (CodecState.afterWrite cfg cfg.addrFmtctl v true x).pd = .down ∨
      (CodecState.afterWrite cfg cfg.addrFmtctl v true x).pd = .up := by
  rw [CodecState.afterWrite_pd, if_pos rfl, if_pos rfl]
  split
  · exact .inl rfl
  · exact .inr rfl

theorem sysclkSound_afterWrite (h : sysclkSound x) (a v : Nat) (ok : Bool) :
    sysclkSound (CodecState.afterWrite cfg a v ok x) := by
  by_cases ha : a = cfg.addrFmtctl
  · cases ok
    · exact ⟨fun hv => by simp [CodecState.afterWrite, ha] at hv, fun _ => by simp [CodecState.afterWrite, ha]⟩
    · exact ⟨fun hv => ⟨ha ▸ CodecState.afterWrite_pd_known cfg v x, (h.1 hv).2⟩, h.2⟩
  · obtain ⟨hpd, hrate, hvalid⟩ := CodecState.afterWrite_of_ne ha v ok x
    unfold sysclkSound
    rwa [hpd, hrate, hvalid]

namespace CodecSound

theorem reset (h : configOk cfg = true) : CodecSound cfg CodecState.reset where
  sysclk := ⟨nofun, fun _ => rfl⟩
  down := nofun
  up := nofun
  wf := Memory.wf_nil _
  range a v hv := by
    rw [← Option.some.inj (hv : some (resetDefault cfg a) = some v)]
    exact resetDefault_lt h a

theorem clearSysclk (h : CodecSound cfg x) : CodecSound cfg x.clearSysclk :=
  ⟨⟨nofun, fun _ => rfl⟩, h.down, h.up, h.wf, h.range⟩

theorem setSysclk (h : CodecSound cfg x) {m : Word} (hm : isMasterRate m = true) (hpd : x.pd = .down ∨ x.pd = .up) :
    CodecSound cfg (x.setSysclk m) :=
  ⟨⟨fun _ => ⟨hpd, hm⟩, nofun⟩, h.down, h.up, h.wf, h.range⟩

/-- A write of a register value keeps a codec sound, whatever the answer (R142). -/
theorem afterWrite (h : CodecSound cfg x) (a : Nat) {v : Nat} (hv : v < 2 ^ cfg.regDataBits) (ok : Bool) :
    CodecSound cfg (CodecState.afterWrite cfg a v ok x) := by
  have hread := CodecState.read_afterWrite h.wf a v ok
  have hpd := CodecState.afterWrite_pd cfg a v ok x
  refine ⟨sysclkSound_afterWrite h.sysclk a v ok, fun hdown => ?_, fun hup => ?_, ?_, fun b w hw => ?_⟩
  · rw [hpd] at hdown
    by_cases ha : a = cfg.addrFmtctl
    · rw [if_pos ha] at hdown
      cases ok
      · exact nomatch hdown
      · exact ⟨v, by rw [hread, if_pos ha.symm, if_pos rfl], by simpa using hdown⟩
    · rw [if_neg ha] at hdown
      rw [hread, if_neg (Ne.symm ha)]
      exact h.down hdown
  · rw [hpd] at hup
    by_cases ha : a = cfg.addrFmtctl
    · rw [if_pos ha] at hup
      cases ok
      · exact nomatch hup
      · exact ⟨v, by rw [hread, if_pos ha.symm, if_pos rfl], by simpa using hup⟩
    · rw [if_neg ha] at hup
      rw [hread, if_neg (Ne.symm ha)]
      exact h.up hup
  · rw [CodecState.afterWrite_shadow]
    exact Memory.write_wf _ h.wf _ _
  · rw [hread] at hw
    split at hw
    · cases ok
      · exact nomatch hw
      · rwa [← Option.some.inj hw]
    · exact h.range b w hw

end CodecSound

/-! ## All codecs -/

/-- The codec part of the invariant. -/
structure RegistersSound (s : State) : Prop where
  codec  : ∀ c, CodecSound s.cfg (s.codec c)
  ref    : ∀ c, refSound s c
  absent : ∀ c, present s.cfg c = false → s.codec c = CodecState.reset

variable {i : Instr} {s t : State}

theorem Inv.registersSound (h : Inv s) : RegistersSound s where
  codec c := by
    obtain ⟨hdown, hup⟩ := h.power c
    obtain ⟨hwf, hrange⟩ := h.shadow c
    exact ⟨h.sysclk c, hdown, hup, hwf, hrange⟩
  ref := h.ref
  absent := by
    obtain ⟨-, hcodecs⟩ := h.absent
    exact hcodecs

/-- Every value a step writes is a register value (R62). -/
theorem storesValue_lt {c : CodecId} {a v : Nat} (hok : configOk s.cfg = true)
    (hs : CodecSound s.cfg (s.codec c)) (h : storesValue i s c a v) : v < 2 ^ s.cfg.regDataBits := by
  have hrmw (base clear set : Nat) : rmwValue s.cfg base clear set < 2 ^ s.cfg.regDataBits :=
    Nat.mod_lt _ (by positivity)
  obtain ⟨hbatch, -⟩ := configOk_batch hok
  cases i with
  | applyStartup cs => exact hbatch (a, v) h
  | setFmtSysclk cs => obtain ⟨base, -, rfl⟩ := h; exact hrmw _ _ _
  | powerUp cs => obtain ⟨base, -, rfl⟩ := h; exact hrmw _ _ _
  | writeSynced cs d => obtain ⟨base, -, rfl⟩ := h; exact hrmw _ _ _
  | powerDown cs =>
    obtain rfl : v = s.powerDownBase c ||| s.cfg.pdMask := h
    obtain ⟨-, -, hpd, -⟩ := configOk_power hok
    refine Nat.or_lt_two_pow ?_ hpd
    unfold State.powerDownBase
    cases hsh : s.shadow c s.cfg.addrFmtctl with
    | none => exact hbatch _ (startupFmtctl_mem hok)
    | some base => exact hs.range _ _ hsh
  | setVolume c' ch =>
    obtain ⟨-, -, hmsb, hlsb⟩ := configOk_widths hok
    obtain ⟨-, -, -, hlatch⟩ := configOk_latch hok
    have hfield (r lo : Nat) {width : Nat} (hw : width ≤ s.cfg.regDataBits) :
        bitField r lo width < 2 ^ s.cfg.regDataBits :=
      (Nat.mod_lt _ (by positivity)).trans_le (Nat.pow_le_pow_right (by decide) hw)
    rcases h with ⟨-, rfl⟩ | ⟨-, rfl⟩
    · exact hfield _ _ hlsb
    · exact Nat.or_lt_two_pow (hfield _ _ (by unfold volMsbBits volBits; omega)) hlatch
  | _ => exact h.elim

theorem mem_of_currentCodec {cs : CodecSet} {c : CodecId} (h : currentCodec cs s = some c) : c ∈ codecList cs :=
  List.mem_of_getElem? h

/-- A step writes only registers of codecs that its command names. -/
theorem storeTarget_mem {c : CodecId} {a : Nat} (h : storeTarget i s = some (c, a)) : c ∈ i.codecs := by
  have hcur {cs : CodecSet} {b : Nat} (h : (currentCodec cs s).map (fun c => (c, b)) = some (c, a)) :
      c ∈ cs.codecs := by
    obtain ⟨c', hc', heq⟩ := Option.map_eq_some_iff.mp h
    cases heq
    exact mem_of_currentCodec hc'
  unfold storeTarget at h
  split at h
  · exact nomatch h
  · exact nomatch h
  · cases i with
    | applyStartup cs =>
      dsimp only at h
      split at h
      · next c' r hc' _ =>
        obtain ⟨e, -, heq⟩ := Option.map_eq_some_iff.mp h
        cases heq
        exact mem_of_currentCodec hc'
      · exact nomatch h
    | setFmtSysclk cs => exact hcur h
    | powerUp cs => exact hcur h
    | powerDown cs => exact hcur h
    | writeSynced cs d => exact hcur h
    | setVolume c' ch =>
      cases h
      exact List.mem_singleton.mpr rfl
    | _ => exact nomatch h

theorem present_of_wellFormed {c : CodecId} (hwf : i.wellFormed s.cfg.numCodecs = true) (hc : c ∈ i.codecs) :
    present s.cfg c = true :=
  List.all_eq_true.mp hwf c hc

theorem RefModel.write_wf {m : RefModel} {c' : CodecId} (cfg : Config)
    (h : Memory.wf (resetDefault cfg) (m.codec c').reg) (c : CodecId) (a v : Nat) (d : Answer) :
    Memory.wf (resetDefault cfg) ((m.write cfg c a v d).codec c').reg := by
  by_cases hc : c' = c
  · subst hc
    rw [RefModel.write_codec_same]
    split
    · rw [RefCodec.take_reg]
      exact Memory.write_wf _ h _ _
    · exact h
  · rwa [RefModel.write_codec_ne cfg m a v d hc]

/-- What a command does after a write keeps a codec sound: SET_FMT_SYSCLK sets a master rate, and only where the write
it made left the power state known (R188). -/
theorem CodecSound.afterAnswer {ok : Bool} {x : CodecState} (h : CodecSound s.cfg x)
    (hfmt : ∀ cs, i = .setFmtSysclk cs → ok = true →
      isMasterRate s.eng.cur.arg0 = true ∧ (x.pd = .down ∨ x.pd = .up)) :
    CodecSound s.cfg (afterAnswer i s ok x) := by
  cases i with
  | setFmtSysclk cs =>
    cases ok
    · exact h
    · obtain ⟨hrate, hpd⟩ := hfmt cs rfl rfl
      exact h.setSysclk hrate hpd
  | powerDown cs => exact h.clearSysclk
  | _ => exact h

/-- A step keeps the codec part of the invariant. -/
theorem RegisterEffect.registersSound (h : RegisterEffect i s t) (hs : RegistersSound s) (hcfg : t.cfg = s.cfg)
    (hok : configOk s.cfg = true) (hwf : i.wellFormed s.cfg.numCodecs = true)
    (hrate : ∀ cs, i = .setFmtSysclk cs → s.position.phase = .body → isMasterRate s.eng.cur.arg0 = true) :
    RegistersSound t := by
  have habsent {c c' : CodecId} (hc : c ∈ i.codecs) (hc' : present t.cfg c' = false) : c' ≠ c := by
    rintro rfl
    rw [hcfg, present_of_wellFormed hwf hc] at hc'
    exact nomatch hc'
  rcases h with ⟨-, href, hkept | ⟨cs, c, rfl, -, hc, -, hcleared⟩⟩ | ⟨c, a, v, d, hw⟩
  · exact ⟨fun c => by rw [hcfg, hkept]; exact hs.codec c, fun c => by rw [refSound, hcfg, href]; exact hs.ref c,
      fun c hc => by rw [hkept]; exact hs.absent c (hcfg ▸ hc)⟩
  · refine ⟨fun c' => ?_, fun c => by rw [refSound, hcfg, href]; exact hs.ref c, fun c' hc' => ?_⟩
    · rw [hcfg, hcleared]
      split
      · exact (hs.codec c).clearSysclk
      · exact hs.codec c'
    · rw [hcleared, if_neg (habsent (mem_of_currentCodec hc) hc')]
      exact hs.absent c' (hcfg ▸ hc')
  · refine ⟨fun c' => ?_, fun c' => ?_, fun c' hc' => ?_⟩
    · rw [hcfg, hw.codec]
      split
      · refine ((hs.codec c).afterWrite a (storesValue_lt hok (hs.codec c) hw.value) d.ok).afterAnswer ?_
        rintro cs rfl hdok
        have ha : a = s.cfg.addrFmtctl := by
          have htarget := hw.target
          rw [storeTarget, hw.phase] at htarget
          obtain ⟨_, -, heq⟩ := Option.map_eq_some_iff.mp htarget
          cases heq
          rfl
        rw [ha, hdok]
        exact ⟨hrate cs rfl hw.phase, CodecState.afterWrite_pd_known _ _ _⟩
      · exact hs.codec c'
    · rw [refSound, hcfg, hw.ref]
      exact RefModel.write_wf s.cfg (hs.ref c') c a v d
    · rw [hw.codec, if_neg (habsent (storeTarget_mem hw.target) hc')]
      exact hs.absent c' (hcfg ▸ hc')

end Sys2Proof.Machine
end

section
/-! PROOFS. The clock and position part of the invariant (R48 items 1 to 4 and 7, R127): each command keeps it over
one engine step. -/
namespace Sys2Proof.Machine

variable {i : Instr} {s t x : State}

/-! ## The consumer clocks (R48 items 1 and 7) -/

/-- Enabled implies prepared, and an absent clock is Idle. -/
def consumersSound (cfg : Config) (c : ClockState) : Prop :=
  (∀ k, c.enabled k = true → c.prepared k = true) ∧ ∀ k, clockPresent cfg k = false → c.flags k = Lifecycle.idle

theorem Inv.consumersSound (h : Inv s) : consumersSound s.cfg s.clk := by
  obtain ⟨hordered, -⟩ := h.ordered
  obtain ⟨habsent, -⟩ := h.absent
  exact ⟨hordered, habsent⟩

theorem consumersSound.of_flags {cfg : Config} {c c' : ClockState} (h : consumersSound cfg c)
    (hf : ∀ k, c'.flags k = c.flags k) : consumersSound cfg c' := by
  obtain ⟨hordered, habsent⟩ := h
  refine ⟨fun k => ?_, fun k hk => (hf k).trans (habsent k hk)⟩
  unfold ClockState.enabled ClockState.prepared
  rw [hf]
  exact hordered k

/-- A present clock may take flags that are in order. -/
theorem consumersSound.setFlags {cfg : Config} {c : ClockState} (h : consumersSound cfg c) {k : Consumer}
    {v : Lifecycle} (hk : clockPresent cfg k = true) (hv : v.enabled = true → v.prepared = true) :
    consumersSound cfg (c.setFlags k v) := by
  obtain ⟨hordered, habsent⟩ := h
  refine ⟨fun k' => ?_, fun k' hk' => ?_⟩
  · unfold ClockState.enabled ClockState.prepared
    rw [ClockState.flags_setFlags]
    split
    · exact hv
    · exact hordered k'
  · have hne : k' ≠ k := by
      rintro rfl
      rw [hk] at hk'
      exact nomatch hk'
    rw [ClockState.flags_setFlags, if_neg hne]
    exact habsent k' hk'

/-- A group names present clocks only (R22, R23). -/
theorem clockPresent_of_mem {cfg : Config} {g : Group} {k : Consumer} (h : k ∈ groupList cfg g) :
    clockPresent cfg k = true := by
  refine (mem_groupBoth cfg k).mp ?_
  cases g with
  | bclk => exact List.mem_append_left _ h
  | lrclk => exact List.mem_append_right _ h
  | both => exact h

/-- A group command keeps the consumer clocks sound if the change it makes to a clock that was due is in order. -/
theorem clockStep.consumersSound {cfg : Config} {l : List Consumer} {due : Consumer → Prop} {op : ClkOp}
    {answer : Bool → Prop} {f : Consumer → ClockState → ClockState} (h : clockStep l due op answer f s t)
    (hs : consumersSound cfg s.clk)
    (hf : ∀ k ∈ l, s.position.phase = .body → due k → Machine.consumersSound cfg (f k s.clk)) :
    Machine.consumersSound cfg t.clk := by
  rcases h with hsame | ⟨k, _, hmem, hbody, hdue, -, hclk, -⟩
  · rwa [hsame]
  · rw [hclk]
    exact hf k hmem hbody hdue

theorem exec_consumersSound (hinv : Inv s) (hruns : s.runs i) (h : exec i s = .next t) :
    consumersSound t.cfg t.clk := by
  have hs := hinv.consumersSound
  obtain ⟨hcfg, -⟩ := (exec_shape h).hostSideKept
  have hkept := (exec_shape h).clocksKept
  rw [hcfg]
  cases i with
  | prepareAll g =>
    exact (execPrepareAll_clk h).consumersSound hs fun k hk _ _ => hs.setFlags (clockPresent_of_mem hk) fun _ => rfl
  | enableAll g =>
    exact (execEnableAll_clk h).consumersSound hs fun k hk hbody _ =>
      hs.setFlags (clockPresent_of_mem hk) fun _ => hinv.inBody hruns hbody k hk
  | disableAll g =>
    exact (execDisableAll_clk h).consumersSound hs fun k hk _ _ =>
      hs.setFlags (clockPresent_of_mem (List.mem_reverse.mp hk)) nofun
  | unprepareAll g =>
    refine (execUnprepareAll_clk h).consumersSound hs fun k hk hbody _ => ?_
    have hk := List.mem_reverse.mp hk
    refine hs.setFlags (clockPresent_of_mem hk) fun henabled => ?_
    exact absurd ((hinv.inBody hruns hbody k hk).symm.trans henabled) Bool.false_ne_true
  | selectMaster => exact hs.of_flags hkept
  | releaseMaster => exact hs.of_flags hkept
  | _ => exact hs.of_flags fun k => congrArg (ClockState.flags · k) hkept

/-! ## What the premises of a command depend on -/

/-- From s to t nothing changed that the premises of a command speak of. -/
def samePremises (s t : State) : Prop :=
  t.cfg = s.cfg ∧ t.clk = s.clk ∧ (∀ c, t.codec c = s.codec c) ∧ t.eng.cur = s.eng.cur

theorem guardsOf_congr (h : samePremises s t) (i : Instr) : guardsOf t i = guardsOf s i := by
  obtain ⟨hcfg, hclk, hcodec, -⟩ := h
  cases i <;> simp only [guardsOf, enableGuards, unprepareGuards, startupGuards, fmtGuards, powerUpGuards,
    State.sysclkChecks, hcfg, hclk, hcodec]

theorem firstCheckPassed_congr (h : samePremises s t) (i : Instr) : firstCheckPassed t i ↔ firstCheckPassed s i := by
  obtain ⟨hcfg, hclk, -, hcur⟩ := h
  cases i <;> simp only [firstCheckPassed, hcfg, hclk, hcur]

theorem guardsSound_congr (h : samePremises s t) (p : Position) (i : Instr) :
    guardsSound t p i ↔ guardsSound s p i := by
  unfold guardsSound
  rw [guardsOf_congr h, firstCheckPassed_congr h]

theorem bodySound_congr (h : samePremises s t) (p : Position) (i : Instr) : bodySound t p i ↔ bodySound s p i := by
  obtain ⟨hcfg, hclk, hcodec, hcur⟩ := h
  cases i <;> simp only [bodySound, hcfg, hclk, hcodec, hcur]

/-! ## The guard loops (R127) -/

/-- The commands whose body changes the gate, the mux or the settle wait (R155, R156). -/
def masterCommand (i : Instr) : Prop := i = .selectMaster ∨ i = .releaseMaster

/-- Where the first check and all guards of a command passed, its body may begin. -/
theorem bodySound_of_checks (hi : ¬ masterCommand i) (hc : firstCheckPassed s i)
    (hg : ∀ x ∈ guardsOf s i, x.fails = false) {p : Position} (he : p.elem = 0) : bodySound s p i := by
  cases i with
  | enableAll g =>
    intro k hk
    simpa using hg _ (List.mem_append_right _ (List.mem_map_of_mem hk))
  | unprepareAll g =>
    intro k hk
    simpa using hg _ (List.mem_map_of_mem (List.mem_reverse.mpr hk))
  | setFmtSysclk cs =>
    obtain ⟨hrate, hmask⟩ := hc
    refine ⟨hrate, hmask, fun c hmem => ?_⟩
    rw [he] at hmem
    simpa using hg _ (List.mem_map_of_mem hmem)
  | powerUp cs =>
    refine ⟨hc, fun k hk => ?_, fun c hmem => ?_⟩
    · simpa using hg _ (List.mem_append_left _ (List.mem_map_of_mem hk))
    · rw [he] at hmem
      simpa using hg _ (List.mem_append_right _ (List.mem_map_of_mem hmem))
  | selectMaster => exact absurd (.inl rfl) hi
  | releaseMaster => exact absurd (.inr rfl) hi
  | _ => exact trivial

/-- The iterations up to the current one have passed. -/
theorem guards_passed {gs : List GuardCheck} {n : Nat} {g : GuardCheck} (hpast : ∀ x ∈ gs.take n, x.fails = false)
    (hg : gs[n]? = some g) (hpass : g.fails = false) : ∀ x ∈ gs.take (n + 1), x.fails = false := by
  rw [List.take_add_one, hg, List.forall_mem_append]
  exact ⟨hpast, by simpa using hpass⟩

/-- In the guard loops after a step, their premises hold. -/
theorem Advances.guardsSound {q : Position} (h : Advances i s q) (hq : q.phase = .guards)
    (hs : s.position.phase = .guards → guardsSound s s.position i) : guardsSound s q i := by
  cases h with
  | enterGuards _ checked guarded _ elem =>
    exact ⟨elem ▸ List.length_pos_iff.mpr guarded, by simp [elem], checked⟩
  | nextGuard g hp hg pass more _ elem =>
    obtain ⟨-, hpast, hc⟩ := hs hp
    exact ⟨elem ▸ more, elem ▸ guards_passed hpast hg pass, hc⟩
  | startBody _ _ _ phase | guardsToBody _ _ _ _ _ phase | nextReq _ _ phase | nextElem _ phase =>
    rw [phase] at hq
    exact nomatch hq

/-- Where a step enters the body, the premises of the body hold. -/
theorem Advances.bodyEntered {q : Position} (h : Advances i s q) (hi : ¬ masterCommand i) (hq : q.phase = .body)
    (hp : s.position.phase ≠ .body) (hs : s.position.phase = .guards → Machine.guardsSound s s.position i) :
    bodySound s q i := by
  cases h with
  | startBody _ checked unguarded _ elem _ => exact bodySound_of_checks hi checked (by simp [unguarded]) elem
  | guardsToBody g hp hg pass last _ elem _ =>
    obtain ⟨-, hpast, hc⟩ := hs hp
    have hall := guards_passed hpast hg pass
    rw [List.take_of_length_le (by omega)] at hall
    exact bodySound_of_checks hi hc hall elem
  | enterGuards _ _ _ phase | nextGuard _ _ _ _ _ phase =>
    rw [phase] at hq
    exact nomatch hq
  | nextReq hbody | nextElem hbody => exact absurd hbody hp

/-- Outside its body a command changes nothing its premises speak of. -/
theorem exec_check_samePremises (hi : ¬ masterCommand i) (h : exec i s = .next t) (hp : s.position.phase ≠ .body) :
    samePremises s t := by
  have hshape := exec_shape h
  obtain ⟨hcfg, -, hcur, -⟩ := hshape.hostSideKept
  have hclk : t.clk = s.clk := by
    have hstep {l : List Consumer} {due : Consumer → Prop} {op : ClkOp} {answer : Bool → Prop}
        {f : Consumer → ClockState → ClockState} (hc : clockStep l due op answer f s t) : t.clk = s.clk :=
      hc.resolve_right fun ⟨_, _, _, hbody, _⟩ => hp hbody
    have hkept := hshape.clocksKept
    cases i with
    | prepareAll g => exact hstep (execPrepareAll_clk h)
    | enableAll g => exact hstep (execEnableAll_clk h)
    | disableAll g => exact hstep (execDisableAll_clk h)
    | unprepareAll g => exact hstep (execUnprepareAll_clk h)
    | selectMaster => exact absurd (.inl rfl) hi
    | releaseMaster => exact absurd (.inr rfl) hi
    | _ => exact hkept
  refine ⟨hcfg, hclk, ?_, hcur⟩
  rcases exec_registers h with ⟨-, -, hkept | ⟨_, _, -, hbody, -⟩⟩ | ⟨c, a, v, d, hw⟩
  · exact hkept
  · exact absurd hbody hp
  · exact absurd hw.phase hp

/-! ## The body of a command -/

theorem Advances.elem_of_body {q : Position} (h : Advances i s q) (hp : s.position.phase = .body)
    (hi : ¬ severalRequests i) : q.elem = s.position.elem + 1 := by
  cases h with
  | nextElem _ _ elem _ => exact elem
  | nextReq _ several => exact absurd several hi
  | enterGuards hs | nextGuard _ hs | startBody hs | guardsToBody _ hs =>
    rw [hp] at hs
    exact nomatch hs

theorem ne_of_mem_drop {α : Type} {l : List α} (hl : l.Nodup) {n : Nat} {a b : α} (ha : l[n]? = some a)
    (hb : b ∈ l.drop (n + 1)) : b ≠ a := by
  obtain ⟨hn, rfl⟩ := List.getElem?_eq_some_iff.mp ha
  have hnodup := hl.sublist (List.drop_sublist n l)
  rw [List.drop_eq_getElem_cons hn, List.nodup_cons] at hnodup
  rintro rfl
  exact hnodup.1 hb

/-- The body is never left but by an end (R126). -/
theorem Advances.phase_of_body {q : Position} (h : Advances i s q) (hp : s.position.phase = .body) :
    q.phase = .body := by
  cases h with
  | nextElem _ phase | nextReq _ _ phase => exact phase
  | enterGuards hs | nextGuard _ hs | startBody hs | guardsToBody _ hs =>
    rw [hp] at hs
    exact nomatch hs

/-- A step of a command whose element is one read-modify-write leaves the codecs still to come alone. -/
theorem codec_ahead_kept {cs : CodecSet} {a : Nat} (h : exec i s = .next t) (hi : ∀ cs, i ≠ .applyStartup cs)
    (htarget : s.position.phase = .body → storeTarget i s = (currentCodec cs s).map fun c => (c, a)) :
    ∀ c ∈ (codecList cs).drop (s.position.elem + 1), t.codec c = s.codec c := by
  intro c hc
  rcases exec_registers h with ⟨-, -, hkept | ⟨cs', _, heq, -⟩⟩ | ⟨c', a', v, d, hw⟩
  · exact hkept c
  · exact absurd heq (hi cs')
  · obtain ⟨_, hcur, heq⟩ := Option.map_eq_some_iff.mp ((htarget hw.phase).symm.trans hw.target)
    cases heq
    rw [hw.codec, if_neg (ne_of_mem_drop (by cases cs <;> decide) hcur hc)]

/-- The body keeps its premises from step to step. -/
theorem exec_bodySound (hinv : Inv s) (hruns : s.runs i) (hi : ¬ masterCommand i) (h : exec i s = .next t)
    (hp : s.position.phase = .body) {q : Position} (hq : Advances i s q) : bodySound t q i := by
  have hbody := hinv.inBody hruns hp
  obtain ⟨hcfg, -, hcur, -⟩ := (exec_shape h).hostSideKept
  have hkept := (exec_shape h).clocksKept
  have helem := hq.elem_of_body hp
  have hdrop {cs : CodecSet} {c : CodecId} (hc : c ∈ (codecList cs).drop (s.position.elem + 1)) :
      c ∈ (codecList cs).drop s.position.elem :=
    (List.drop_sublist_drop_left _ (Nat.le_succ _)).subset hc
  cases i with
  | enableAll g =>
    intro k hk
    rw [hcfg] at hk
    rcases execEnableAll_clk h with hclk | ⟨_, _, -, -, -, -, hclk, -⟩
    · rw [hclk]
      exact hbody k hk
    · rw [hclk, ClockState.prepared_setEnabled]
      exact hbody k hk
  | unprepareAll g =>
    intro k hk
    rw [hcfg] at hk
    rcases execUnprepareAll_clk h with hclk | ⟨_, _, -, -, -, -, hclk, -⟩
    · rw [hclk]
      exact hbody k hk
    · rw [hclk, ClockState.enabled_setPrepared]
      exact hbody k hk
  | setFmtSysclk cs =>
    obtain ⟨hrate, hmask, hdown⟩ := hbody
    have hahead := codec_ahead_kept (cs := cs) (a := s.cfg.addrFmtctl) h nofun fun hb => by rw [storeTarget, hb]
    refine ⟨by rwa [hcur], by rwa [hcur, hcfg], fun c hc => ?_⟩
    rw [helem not_false] at hc
    rw [hahead c hc]
    exact hdown c (hdrop hc)
  | powerUp cs =>
    obtain ⟨hmaster, hclocks, hvalid⟩ := hbody
    have hclk : t.clk = s.clk := hkept
    have hahead := codec_ahead_kept (cs := cs) (a := s.cfg.addrFmtctl) h nofun fun hb => by rw [storeTarget, hb]
    refine ⟨by rwa [hclk], by rwa [hclk, hcfg], fun c hc => ?_⟩
    rw [helem not_false] at hc
    rw [hahead c hc]
    exact hvalid c (hdrop hc)
  | selectMaster => exact absurd (.inl rfl) hi
  | releaseMaster => exact absurd (.inr rfl) hi
  | _ => exact trivial

/-! ## The clocks and the position of a command -/

/-- The invariant of the gate, the mux, the settle wait and the position, said of the command the engine runs or has
just ended. -/
structure CommandSound (i : Instr) (s : State) : Prop where
  gate   : s.clk.gateEnabled = true → s.clk.gatePrepared = true
  master : masterSettled s
  settle : s.clk.settlePending = true → i = .selectMaster ∧ s.eng.busy = true
  start  : startSound s
  place  : ∀ p, s.eng.step = some p → (p.phase = .body → bodySound s p i) ∧ (p.phase = .guards → guardsSound s p i)

theorem Inv.commandSound (hinv : Inv s) (hruns : s.runs i) : CommandSound i s where
  gate := by
    obtain ⟨-, hgate⟩ := hinv.ordered
    exact hgate
  master := hinv.master
  settle hpending := by
    obtain ⟨hbusy, hselect⟩ := hinv.settle hpending
    exact ⟨Except.ok.inj (hruns.2.symm.trans hselect), hbusy⟩
  start := hinv.start
  place p hp := hinv.position i p hruns hp

theorem Inv.inGuards (hinv : Inv s) (hruns : s.runs i) (hguards : s.position.phase = .guards) :
    guardsSound s s.position i :=
  (hinv.position i s.position hruns (hinv.step_eq_position hruns.1)).2 hguards

/-- No settle wait is pending before the body of a command, or while another command than SELECT_MASTER runs (R29). -/
theorem Inv.notSettling (hinv : Inv s) (hruns : s.runs i) (h : s.position.phase ≠ .body ∨ i ≠ .selectMaster) :
    s.clk.settlePending = false := by
  rcases h with hp | hi
  · exact hinv.start _ (hinv.step_eq_position hruns.1) hp
  · rw [← Bool.not_eq_true]
    exact fun hpending => hi ((hinv.commandSound hruns).settle hpending).1

/-- With the master clock off nothing is asked of the gate and the mux (R27). -/
theorem masterSettled_of_off (h : s.clk.masterClockEnabled = false) : masterSettled s :=
  fun hon => absurd (h.symm.trans hon) Bool.false_ne_true

namespace CommandSound

/-- Holding keeps the invariant. -/
theorem held (h : CommandSound i s) (e : Environment) : CommandSound i { s with env := e } := by
  have hsame : samePremises s { s with env := e } := ⟨rfl, rfl, fun c => State.env_codec s e c, rfl⟩
  refine ⟨h.gate, h.master, h.settle, h.start, fun p hp => ?_⟩
  obtain ⟨hbody, hguards⟩ := h.place p hp
  exact ⟨fun hph => (bodySound_congr hsame p i).mpr (hbody hph),
    fun hph => (guardsSound_congr hsame p i).mpr (hguards hph)⟩

/-- A command that ends with no settle wait pending leaves the invariant. -/
theorem ended (hgate : x.clk.gateEnabled = true → x.clk.gatePrepared = true) (hmaster : masterSettled x)
    (hsettle : x.clk.settlePending = false) (code : Code) (id addr : Nat) :
    CommandSound i (x.raise code id addr) :=
  ⟨hgate, hmaster, fun hpending => absurd (hsettle.symm.trans hpending) Bool.false_ne_true, nofun, nofun⟩

/-- A command that goes on in its body keeps the invariant where the premises of the body hold. -/
theorem inBody {f : Position → Position} (hgate : x.clk.gateEnabled = true → x.clk.gatePrepared = true)
    (hmaster : masterSettled x)
    (hsettle : x.clk.settlePending = true → i = .selectMaster ∧ x.eng.busy = true)
    (hphase : (f x.position).phase = .body) (hbody : bodySound x (f x.position) i) : CommandSound i (x.goTo f) := by
  have hsame : samePremises x (x.goTo f) := ⟨rfl, rfl, fun c => State.goTo_codec x f c, rfl⟩
  refine ⟨hgate, hmaster, hsettle, fun p hp hne => ?_, fun p hp => ?_⟩
  · cases hp
    exact absurd hphase hne
  · cases hp
    refine ⟨fun _ => (bodySound_congr hsame _ i).mpr hbody, fun hguards => ?_⟩
    rw [hphase] at hguards
    exact nomatch hguards

end CommandSound

/-- Every command but the two of the master clock leaves the gate, the mux and the settle wait alone. -/
theorem clocksKept.masterPart {c c' : ClockState} (h : clocksKept i c c') (hi : ¬ masterCommand i) :
    masterPartKept c c' := by
  cases i with
  | prepareAll g | enableAll g | disableAll g | unprepareAll g => exact h
  | selectMaster => exact absurd (.inl rfl) hi
  | releaseMaster => exact absurd (.inr rfl) hi
  | _ =>
    obtain rfl : c' = c := h
    exact masterPartKept_refl _

/-- The group and codec commands keep the invariant of the clocks and the position. -/
theorem exec_commandSound_other (hinv : Inv s) (hruns : s.runs i) (hi : ¬ masterCommand i) (h : exec i s = .next t) :
    CommandSound i t := by
  have hs := hinv.commandSound hruns
  have hshape := exec_shape h
  obtain ⟨hgp, hge, hm, hmux, hsp⟩ := hshape.clocksKept.masterPart hi
  have hquiet : t.clk.settlePending = false := hsp.trans (hinv.notSettling hruns (.inr fun hsel => hi (.inl hsel)))
  have hmaster : masterSettled t := by
    unfold masterSettled
    rw [hm, hge, hmux, hsp]
    exact hs.master
  refine ⟨by rw [hge, hgp]; exact hs.gate, hmaster, fun hpending => ?_, fun _ _ _ => hquiet, fun q hq => ?_⟩
  · exact absurd (hquiet.symm.trans hpending) Bool.false_ne_true
  · rcases hshape.outcome with ⟨e, rfl⟩ | ⟨-, q', hq', hahead⟩ | ⟨_, _, _, -, hnone, -⟩
    · exact (hs.held e).place q hq
    · obtain rfl : q' = q := Option.some.inj (hq'.symm.trans hq)
      by_cases hp : s.position.phase = .body
      · refine ⟨fun _ => exec_bodySound hinv hruns hi h hp hahead, fun hguards => ?_⟩
        exact nomatch (hahead.phase_of_body hp).symm.trans hguards
      · have hsame := exec_check_samePremises hi h hp
        exact ⟨fun hbody => (bodySound_congr hsame _ i).mpr (hahead.bodyEntered hi hbody hp (hinv.inGuards hruns)),
          fun hguards => (guardsSound_congr hsame _ i).mpr (hahead.guardsSound hguards (hinv.inGuards hruns))⟩
    · exact absurd (hnone.symm.trans hq) nofun

/-- SELECT_MASTER keeps it: the gate and the mux at each request are those `bodySound` lists (R155). -/
theorem exec_commandSound_select (hinv : Inv s) (hruns : s.runs .selectMaster)
    (h : exec .selectMaster s = .next t) : CommandSound .selectMaster t := by
  have hs := hinv.commandSound hruns
  simp only [exec, execSelectMaster] at h
  refine State.byPhase_elim (P := CommandSound .selectMaster) h (fun hp => ?_) (fun hp => ?_) fun hp => ?_
  · have hquiet := hinv.notSettling hruns (.inl (by simp [hp]))
    split
    · exact .ended hs.gate hs.master hquiet _ _ _
    · next src hsrc =>
      split
      · exact .ended hs.gate hs.master hquiet _ _ _
      · next hgp =>
        have hge : ¬ s.clk.gateEnabled = true := mt hs.gate hgp
        have hoff : s.clk.masterClockEnabled = false := Bool.not_eq_true _ ▸ fun hon => hge (hs.master hon).1
        have hgate : s.clk.gatePrepared = false ∧ s.clk.gateEnabled = false ∧ s.clk.settlePending = false :=
          ⟨by simpa using hgp, by simpa using hge, hquiet⟩
        exact State.enterBody_elim (P := CommandSound .selectMaster) nofun fun _ => .inBody hs.gate hs.master
          (by simp [hquiet]) rfl ⟨by simp [hsrc], hoff, fun _ => hgate, nofun, nofun, nofun⟩
  · obtain ⟨hsource, hmaster, h0, h1, h2, h3⟩ := hinv.inBody hruns hp
    have hoff := masterSettled_of_off hmaster
    split
    · next hnone => exact absurd hnone hsource
    · next src hsrc hreq =>
      obtain ⟨hgp, hge, hsp⟩ := h0 hreq
      refine State.clkReq_elim (P := CommandSound .selectMaster) hs.held fun ok e => ?_
      split
      · exact .inBody hs.gate (masterSettled_of_off hmaster) (by simp [hsp]) hp
          ⟨hsource, hmaster, by simp, by simp [hgp, hge, hsp], by simp [hreq], by simp [hreq]⟩
      · refine .ended ?_ ?_ ?_ _ _ _
        exacts [hs.gate, masterSettled_of_off hmaster, hsp]
    · next src hsrc hreq =>
      obtain ⟨hmux, hgp, hge, hsp⟩ := h1 hreq
      refine State.startReq_elim (P := CommandSound .selectMaster) hs.held (fun e => ?_) fun e => ?_
      · exact .inBody (by simp) (masterSettled_of_off hmaster) (by simp [hsp]) hp
          ⟨hsource, hmaster, by simp, by simp [hreq], by simp [hmux, hge, hsp], by simp [hreq]⟩
      · refine .ended ?_ ?_ ?_ _ _ _
        exacts [hs.gate, hoff, hsp]
    · next src hsrc hreq =>
      obtain ⟨hmux, hgp, hge, hsp⟩ := h2 hreq
      refine State.startReq_elim (P := CommandSound .selectMaster) hs.held (fun e => ?_) fun e => ?_
      · exact .inBody (by simp [hgp]) (masterSettled_of_off hmaster) (by simp [hruns.1]) hp
          ⟨hsource, hmaster, by simp, by simp [hreq], by simp [hreq], by simp [hmux, hgp]⟩
      · refine .ended ?_ ?_ ?_ _ _ _
        exacts [hs.gate, hoff, hsp]
    · next src n hsrc hreq =>
      obtain ⟨hmux, hgp, hge, hsp⟩ := h3 (by omega)
      refine State.awaitAnswer_elim (P := CommandSound .selectMaster) hs.held fun d e => .ended ?_ ?_ ?_ _ _ _
      exacts [hs.gate, fun _ => ⟨hge, hmux, rfl⟩, rfl]
  · obtain ⟨hnone, -⟩ := hinv.inGuards hruns hp
    exact absurd hnone (Nat.not_lt_zero _)

/-- RELEASE_MASTER keeps it: the master clock is off from its first step on (R156, R167). -/
theorem exec_commandSound_release (hinv : Inv s) (hruns : s.runs .releaseMaster)
    (h : exec .releaseMaster s = .next t) : CommandSound .releaseMaster t := by
  have hs := hinv.commandSound hruns
  have hquiet := hinv.notSettling hruns (.inr nofun)
  simp only [exec, execReleaseMaster] at h
  refine State.byPhase_elim (P := CommandSound .releaseMaster) h (fun hp => ?_) (fun hp => ?_) fun hp => ?_
  · refine State.enterBody_elim (P := CommandSound .releaseMaster) nofun fun _ => ?_
    exact .inBody hs.gate (masterSettled_of_off rfl) (by simp [hquiet]) rfl ⟨rfl, nofun⟩
  · obtain ⟨hmaster, hdisabled⟩ := hinv.inBody hruns hp
    have hoff := masterSettled_of_off hmaster
    split
    · have hnext {x : State} (hclk : x.clk = s.clk) (hphase : x.position.phase = .body) :
          CommandSound .releaseMaster (x.onClk fun c => { c with gateEnabled := false }).nextReq :=
        .inBody (by simp) (masterSettled_of_off (by simp [hclk, hmaster])) (by simp [hclk, hquiet]) hphase
          ⟨by simp [hclk, hmaster], fun _ => rfl⟩
      split
      · refine State.teardownReq_elim (P := CommandSound .releaseMaster) hs.held (fun e => ?_) fun e => ?_
        · split <;> exact hnext rfl hp
        · split <;> exact hnext rfl hp
      · next hge => exact .inBody hs.gate hoff (by simp [hquiet]) hp ⟨hmaster, fun _ => by simpa using hge⟩
    · next n hreq =>
      have hend {x : State} (hclk : x.clk = s.clk) :
          CommandSound .releaseMaster (x.onClk fun c => { c with gatePrepared := false }).finish :=
        .ended (by simp [hclk, hdisabled (by omega : 1 ≤ s.position.req)])
          (masterSettled_of_off (by simp [hclk, hmaster])) (by simp [hclk, hquiet]) _ _ _
      split
      · exact State.teardownReq_elim (P := CommandSound .releaseMaster) hs.held (fun _ => hend rfl) fun _ => hend rfl
      · exact .ended hs.gate hoff hquiet _ _ _
  · obtain ⟨hnone, -⟩ := hinv.inGuards hruns hp
    exact absurd hnone (Nat.not_lt_zero _)

theorem exec_commandSound (hinv : Inv s) (hruns : s.runs i) (h : exec i s = .next t) : CommandSound i t := by
  by_cases hi : masterCommand i
  · rcases hi with rfl | rfl
    · exact exec_commandSound_select hinv hruns h
    · exact exec_commandSound_release hinv hruns h
  · exact exec_commandSound_other hinv hruns hi h

end Sys2Proof.Machine
end

section
/-! PROOFS. One step of the machine, said once (R122, R123, R280, R282): what the host's move can do to the block, and
which of host and engine moves. -/
namespace Sys2Proof.Machine

variable {s t : State}

/-! ## The host's move -/

/-- From s to t the host changed nothing of the block, and no held write. -/
def blockKept (s t : State) : Prop :=
  t.cfg = s.cfg ∧ t.attached = s.attached ∧ t.clk = s.clk ∧ t.left = s.left ∧ t.right = s.right ∧ t.eng = s.eng ∧
  t.win = s.win ∧ t.held = s.held ∧ t.ref = s.ref

theorem blockKept_refl (s : State) : blockKept s s := ⟨rfl, rfl, rfl, rfl, rfl, rfl, rfl, rfl, rfl⟩

/-- What a move of the host can do. -/
inductive HostMove (s t : State) : Prop
  | own (h : blockKept s t)
  | write (addr width : Nat) (v : Word) (rest : List HostAction) (r : WindowReg) (attached : s.attached = true)
      (held : s.held = none) (action : s.host.actions = .write addr width v :: rest)
      (reg : hostReg s.cfg addr width = some r) (h : t = (s.hostDone rest).hostWrite r v)
  | release (w : HeldWrite) (held : s.held = some w) (idle : s.eng.busy = false)
      (h : t = { s with held := none }.writeWindow w.reg w.value)
  | attach (cfg : Config) (b : Binding) (rest : List HostAction) (attached : s.attached = false)
      (held : s.held = none) (action : s.host.actions = .attach cfg b :: rest) (legal : configOk cfg = true)
      (h : t = (s.hostDone rest).attachWith cfg)
  | detach (rest : List HostAction) (attached : s.attached = true) (held : s.held = none)
      (action : s.host.actions = .detach :: rest) (idle : s.eng.busy = false) (h : t = (s.hostDone rest).detached)

/-- An access that has a step names a register of the attached block (R64, R282). -/
theorem State.access_eq_next {addr width : Nat} {k : WindowReg → State} (h : s.access addr width k = .next t) :
    s.attached = true ∧ ∃ r, hostReg s.cfg addr width = some r ∧ t = k r := by
  unfold State.access at h
  split at h
  · next hatt =>
    split at h
    · next r hr =>
      cases h
      exact ⟨hatt, r, hr, rfl⟩
    · exact nomatch h
  · exact nomatch h

/-- The host's own requests to the clock tree change no field of the block (R68). -/
theorem State.treeRequest_blockKept (s : State) (rest : List HostAction) (request : Answer → TreeRequest)
    (error : Answer → Option HostError) (note : Answer → HostAgent → HostAgent) :
    blockKept s (s.treeRequest rest request error note) :=
  State.awaitAnswer_elim (P := blockKept s) (fun _ => blockKept_refl s) fun _ _ => blockKept_refl s

theorem hostAct_move {a : HostAction} {rest : List HostAction} (hheld : s.held = none)
    (hact : s.host.actions = a :: rest) (h : s.hostAct a rest = .next t) : HostMove s t := by
  have hself := blockKept_refl s
  cases a with
  | read addr width =>
    obtain ⟨-, r, -, rfl⟩ := State.access_eq_next h
    exact .own hself
  | write addr width v =>
    obtain ⟨hatt, r, hreg, rfl⟩ := State.access_eq_next h
    exact .write addr width v rest r hatt hheld hact hreg rfl
  | wait =>
    simp only [State.hostAct] at h
    split at h
    · exact nomatch h
    · split at h
      · cases h
        exact .own hself
      · cases h
        exact .own hself
  | attach cfg b =>
    simp only [State.hostAct] at h
    split at h
    · exact nomatch h
    · next hatt =>
      split at h
      · next hlegal =>
        cases h
        rw [Bool.and_eq_true] at hlegal
        exact .attach cfg b rest (by simpa using hatt) hheld hact hlegal.1 rfl
      · exact nomatch h
  | detach =>
    simp only [State.hostAct] at h
    split at h
    · exact nomatch h
    · next hatt =>
      split at h
      · cases h
        exact .own hself
      · next hidle =>
        cases h
        exact .detach rest (by simpa using hatt) hheld hact (by simpa using hidle) rfl
  | getParent k =>
    cases h
    exact .own (s.treeRequest_blockKept _ _ _ _)
  | getRate k =>
    cases h
    exact .own (s.treeRequest_blockKept _ _ _ _)
  | setRate k hz =>
    cases h
    exact .own (s.treeRequest_blockKept _ _ _ _)
  | scaleRate k mul div =>
    cases h
    unfold State.scaleRate
    split
    · exact .own (s.treeRequest_blockKept _ _ _ _)
    · exact .own hself
  | failUnlessOk stage n =>
    cases h
    split
    · exact .own hself
    · exact .own hself
  | skipIf test n | fail stage e | negotiated plan | topologyDone | session next =>
    cases h
    exact .own hself

theorem hostStep_move (h : s.hostStep = .next t) : HostMove s t := by
  unfold State.hostStep at h
  split at h
  · next w hheld =>
    split at h
    · cases h
      exact .own (blockKept_refl s)
    · next hidle =>
      cases h
      exact .release w hheld (by simpa using hidle) rfl
  · next hheld =>
    split at h
    · cases h
      exact .own (blockKept_refl s)
    · next a rest hact => exact hostAct_move hheld hact h

/-! ## Who moves -/

/-- Which of host and engine moves next only uses up a draw (log 4). -/
theorem State.pickTurn_snd (s : State) : ∃ e, s.pickTurn.2 = { s with env := e } := by
  unfold State.pickTurn
  split
  · exact ⟨_, rfl⟩
  · split
    · exact ⟨_, rfl⟩
    · exact ⟨s.env, rfl⟩

/-- A step is the host's move, with no block or an idle one, or with a busy one the host's or the engine's. -/
theorem step_cases (h : step s = .next t) :
    (s.hostStep = .next t ∧ (s.attached = true → configOk s.cfg = true ∧ s.eng.busy = false)) ∨
    (s.attached = true ∧ configOk s.cfg = true ∧ s.eng.busy = true ∧
      ∃ e, ({ s with env := e } : State).hostStep = .next t ∨ engineStep { s with env := e } = .next t) := by
  unfold step at h
  split at h
  · next hatt => exact .inl ⟨h, fun hon => by simp [hon] at hatt⟩
  · next hatt =>
    split at h
    · exact nomatch h
    · next hok =>
      have hok : configOk s.cfg = true := by simpa using hok
      split at h
      · next hidle => exact .inl ⟨h, fun _ => ⟨hok, by simpa using hidle⟩⟩
      · next hbusy =>
        obtain ⟨e, he⟩ := s.pickTurn_snd
        rw [he] at h
        refine .inr ⟨by simpa using hatt, hok, by simpa using hbusy, e, ?_⟩
        split at h
        · exact .inl h
        · exact .inr h

/-- A step of the engine is a step of its command, or ends an illegal word (R124). -/
theorem engineStep_cases (h : engineStep s = .next t) :
    (∃ i, s.command = .ok i ∧ exec i s = .next t) ∨ ∃ e, s.command = .error e ∧ t = s.endIllegal := by
  unfold engineStep at h
  split at h
  · next i hi => exact .inl ⟨i, hi, h⟩
  · next e he =>
    cases h
    exact .inr ⟨e, he, rfl⟩

end Sys2Proof.Machine
end

section
/-! PROOFS. The invariant (R48): it holds after reset, and every step of the machine keeps it. -/
namespace Sys2Proof.Machine

variable {i : Instr} {s t : State}

/-! ## Putting the parts together -/

theorem RegistersSound.of_eq (h : RegistersSound s) (hcfg : t.cfg = s.cfg) (hcodec : ∀ c, t.codec c = s.codec c)
    (href : t.ref = s.ref) : RegistersSound t :=
  ⟨fun c => by rw [hcfg, hcodec]; exact h.codec c, fun c => by rw [refSound, hcfg, href]; exact h.ref c,
    fun c hc => by rw [hcodec]; exact h.absent c (hcfg ▸ hc)⟩

/-- The invariant of a state whose clocks, registers and engine are sound, from that of the command it is at. -/
theorem Inv.of_parts (hclocks : Machine.consumersSound t.cfg t.clk) (hregs : RegistersSound t) (heng : engineSound t)
    (hgate : t.clk.gateEnabled = true → t.clk.gatePrepared = true) (hmaster : masterSettled t)
    (hsettle : settleWithinSelection t) (hposition : positionSound t) (hstart : startSound t) : Inv t where
  ordered := ⟨hclocks.1, hgate⟩
  master := hmaster
  settle := hsettle
  sysclk c := (hregs.codec c).sysclk
  absent := ⟨hclocks.2, hregs.absent⟩
  power c := ⟨(hregs.codec c).down, (hregs.codec c).up⟩
  shadow c := ⟨(hregs.codec c).wf, (hregs.codec c).range⟩
  ref := hregs.ref
  engine := heng
  position := hposition
  start := hstart

/-- A state with no command past its start, and no settle wait pending, has nothing to show of its position. -/
theorem Inv.of_quiet (hclocks : Machine.consumersSound t.cfg t.clk) (hregs : RegistersSound t) (heng : engineSound t)
    (hgate : t.clk.gateEnabled = true → t.clk.gatePrepared = true) (hmaster : masterSettled t)
    (hsettle : t.clk.settlePending = false) (hstart : ∀ p, t.eng.step = some p → p.phase = .start) : Inv t := by
  refine .of_parts hclocks hregs heng hgate hmaster ?_ (fun i p _ hp => ?_) fun _ _ _ => hsettle
  · exact fun hpending => absurd (hsettle.symm.trans hpending) Bool.false_ne_true
  · rw [hstart p hp]
    exact ⟨nofun, nofun⟩

/-- The invariant speaks only of the parameters, the clocks, the codecs, the engine, CMD and the reference codec, and of
what a detached block runs and holds. -/
theorem Inv.of_same (h : Inv s) (hcfg : t.cfg = s.cfg) (hclk : t.clk = s.clk) (hleft : t.left = s.left)
    (hright : t.right = s.right) (heng : t.eng = s.eng) (href : t.ref = s.ref) (hcmd : t.win.cmd = s.win.cmd)
    (hdetached : t.attached = false → t.eng.busy = false ∧ t.held = none) : Inv t := by
  obtain ⟨hstep, hcur, -⟩ := h.engine
  cases s
  cases t
  subst hcfg hclk hleft hright heng href
  exact ⟨h.ordered, h.master, h.settle, h.sysclk, h.absent, h.power, h.shadow, h.ref,
    ⟨hstep, hcmd.trans hcur, hdetached⟩, h.position, h.start⟩

theorem Inv.held_of_detached (h : Inv s) (hatt : s.attached = false) : s.eng.busy = false ∧ s.held = none := by
  obtain ⟨-, -, hdetached⟩ := h.engine
  exact hdetached hatt

theorem Inv.env (h : Inv s) (e : Environment) : Inv { s with env := e } :=
  h.of_same rfl rfl rfl rfl rfl rfl rfl h.held_of_detached

theorem Inv.of_blockKept (h : Inv s) (hkept : blockKept s t) : Inv t := by
  obtain ⟨hcfg, hatt, hclk, hleft, hright, heng, hwin, hheld, href⟩ := hkept
  exact h.of_same hcfg hclk hleft hright heng href (by rw [hwin]) (by rw [hatt, heng, hheld]; exact h.held_of_detached)

/-! ## Reset, attach and detach -/

theorem resetWith_codec (cfg : Config) (c : CodecId) : (State.resetWith cfg).codec c = CodecState.reset := by
  cases c <;> rfl

theorem resetWith_inv {cfg : Config} (h : configOk cfg = true) : Inv (State.resetWith cfg) := by
  have hidle (k : Consumer) : ClockState.reset.flags k = Lifecycle.idle := by
    cases k <;> rfl
  have hclocks : consumersSound cfg ClockState.reset := by
    refine ⟨fun k hk => ?_, fun k _ => hidle k⟩
    rw [ClockState.enabled, hidle] at hk
    exact nomatch hk
  have hregs : RegistersSound (State.resetWith cfg) :=
    ⟨fun c => resetWith_codec cfg c ▸ .reset h, fun c => by cases c <;> exact Memory.wf_nil _,
      fun c _ => resetWith_codec cfg c⟩
  exact .of_quiet hclocks hregs ⟨by simp [State.resetWith, Engine.reset], rfl, nofun⟩ nofun nofun rfl nofun

/-- Settles O59: nothing runs after reset, every clock is Idle and every shadow at its default (`resetWith_inv`). -/
theorem resetMeetsTheInvariant : Obligations.ResetMeetsTheInvariant := by
  unfold Obligations.ResetMeetsTheInvariant
  exact fun cfg h => resetWith_inv h

theorem attachWith_inv {cfg : Config} (h : configOk cfg = true) (s : State) : Inv (s.attachWith cfg) :=
  (resetWith_inv h).of_same rfl rfl rfl rfl rfl rfl rfl nofun

theorem detached_inv (h : configOk s.cfg = true) : Inv s.detached :=
  (attachWith_inv h s).of_same rfl rfl rfl rfl rfl rfl rfl fun _ => ⟨rfl, rfl⟩

/-! ## The host's writes -/

/-- The issue of a command to an idle block (R121). -/
theorem Inv.issue (h : Inv s) (hidle : s.eng.busy = false) (hatt : s.attached = true) (w : Word) :
    Inv (s.issue w) := by
  obtain ⟨-, hgate⟩ := h.ordered
  have hquiet : s.clk.settlePending = false := by
    rw [← Bool.not_eq_true]
    exact fun hpending => absurd (hidle.symm.trans (h.settle hpending).1) Bool.false_ne_true
  refine .of_quiet h.consumersSound (h.registersSound.of_eq rfl (fun _ => State.issue_codec s w _) rfl)
    ⟨by simp, rfl, fun hd => ?_⟩ hgate h.master hquiet fun p hp => ?_
  · exact absurd (hatt.symm.trans hd) nofun
  · cases hp
    rfl

/-- A host write that takes effect; one to CMD does so only with the engine idle (R122). -/
theorem Inv.writeWindow (h : Inv s) (hatt : s.attached = true) {r : WindowReg}
    (hidle : r = .cmd → s.eng.busy = false) (v : Word) : Inv (s.writeWindow r v) := by
  cases r with
  | cmd => exact h.issue (hidle rfl) hatt v
  | arg0 | arg1 | flags => exact h.of_same rfl rfl rfl rfl rfl rfl rfl h.held_of_detached
  | status | data | clkstate | codecstate | sysclkL | sysclkR | reserved => exact h

theorem Inv.hostWrite (h : Inv s) (hatt : s.attached = true) (r : WindowReg) (v : Word) : Inv (s.hostWrite r v) := by
  unfold State.hostWrite
  split
  · exact h.of_same rfl rfl rfl rfl rfl rfl rfl fun hd => absurd (hatt.symm.trans hd) nofun
  · next hfree =>
    refine h.writeWindow hatt ?_ v
    rintro rfl
    simpa [WindowReg.holds] using hfree

theorem HostMove.inv (h : HostMove s t) (hinv : Inv s) (hok : s.attached = true → configOk s.cfg = true) : Inv t := by
  have hdone (rest : List HostAction) : Inv (s.hostDone rest) :=
    hinv.of_same rfl rfl rfl rfl rfl rfl rfl hinv.held_of_detached
  cases h with
  | own hkept => exact hinv.of_blockKept hkept
  | write addr width v rest r hatt _ _ _ h =>
    rw [h]
    exact (hdone rest).hostWrite hatt r v
  | release w hheld hidle h =>
    have hatt : s.attached = true := by
      rw [← Bool.not_eq_false]
      exact fun hd => nomatch hheld.symm.trans (hinv.held_of_detached hd).2
    have hfree : Inv { s with held := none } :=
      hinv.of_same rfl rfl rfl rfl rfl rfl rfl fun hd => ⟨(hinv.held_of_detached hd).1, rfl⟩
    rw [h]
    exact hfree.writeWindow hatt (fun _ => hidle) w.value
  | attach cfg b rest _ _ _ hlegal h =>
    rw [h]
    exact attachWith_inv hlegal _
  | detach rest hatt _ _ _ h =>
    rw [h]
    exact detached_inv (s := s.hostDone rest) (hok hatt)

/-! ## The engine's steps -/

/-- A decoded command names present codecs only (R99). -/
theorem decode_wellFormed {n : NumCodecs} {w : Word} (h : decode n w = .ok i) : i.wellFormed n = true := by
  unfold decode at h
  split at h
  · exact nomatch h
  · split at h
    · exact nomatch h
    · split at h
      · next hwf =>
        cases h
        exact hwf
      · exact nomatch h

/-- A step of a command leaves the engine sound (R35, R126). -/
theorem StepShape.engineSound (h : StepShape i s t) (hs : engineSound s) (hbusy : s.eng.busy = true) :
    engineSound t := by
  obtain ⟨hstep, hcmd, hdetached⟩ := hs
  obtain ⟨-, hatt, hcur, hcmd', -⟩ := h.hostSideKept
  refine ⟨?_, by rw [hcmd', hcur, hcmd], fun hd => ?_⟩
  · rcases h.outcome with ⟨e, rfl⟩ | ⟨⟨hb, -⟩, q, hq, -⟩ | ⟨_, _, _, hidle, hnone, -⟩
    · exact hstep
    · simp [hb, hbusy, hq]
    · simp [hidle, hnone]
  · rw [hatt] at hd
    exact absurd (hbusy.symm.trans (hdetached hd).1) nofun

/-- A step of a command keeps the invariant. -/
theorem exec_inv (hinv : Inv s) (hok : configOk s.cfg = true) (hruns : s.runs i) (h : exec i s = .next t) : Inv t := by
  have hshape := exec_shape h
  obtain ⟨hcfg, -, hcur, -⟩ := hshape.hostSideKept
  have hcommand : t.command = s.command := by rw [State.command, State.command, hcfg, hcur]
  have hi {j : Instr} (hj : t.runs j) : j = i := Except.ok.inj (hj.2.symm.trans (hcommand.trans hruns.2))
  have hrate : ∀ cs, i = .setFmtSysclk cs → s.position.phase = .body → isMasterRate s.eng.cur.arg0 = true := by
    rintro cs rfl hp
    exact (hinv.inBody hruns hp).1
  have hregs := (exec_registers h).registersSound hinv.registersSound hcfg hok (decode_wellFormed hruns.2) hrate
  have hc := exec_commandSound hinv hruns h
  refine .of_parts (exec_consumersSound hinv hruns h) hregs (hshape.engineSound hinv.engine hruns.1) hc.gate hc.master
    (fun hpending => ?_) (fun j p hj hp => ?_) hc.start
  · obtain ⟨rfl, hbusy⟩ := hc.settle hpending
    exact ⟨hbusy, hcommand.trans hruns.2⟩
  · obtain rfl := hi hj
    exact hc.place p hp

/-- The end of an illegal word keeps the invariant: no settle wait is pending there (R29, R124). -/
theorem endIllegal_inv (hinv : Inv s) {e : Illegal} (he : s.command = .error e) : Inv s.endIllegal := by
  obtain ⟨-, hgate⟩ := hinv.ordered
  obtain ⟨-, hcmd, -⟩ := hinv.engine
  have hquiet : s.clk.settlePending = false := by
    rw [← Bool.not_eq_true]
    exact fun hpending => nomatch he.symm.trans (hinv.settle hpending).2
  exact .of_quiet hinv.consumersSound (hinv.registersSound.of_eq rfl (fun _ => State.raise_codec s _ _ _ _) rfl)
    ⟨by simp, hcmd, fun hd => ⟨rfl, (hinv.held_of_detached hd).2⟩⟩ hgate hinv.master hquiet nofun

theorem engineStep_inv (hinv : Inv s) (hok : configOk s.cfg = true) (hbusy : s.eng.busy = true)
    (h : engineStep s = .next t) : Inv t := by
  rcases engineStep_cases h with ⟨i, hi, hexec⟩ | ⟨e, he, rfl⟩
  · exact exec_inv hinv hok ⟨hbusy, hi⟩ hexec
  · exact endIllegal_inv hinv he

/-- Settles O60: the host's move keeps the invariant (`HostMove.inv`), and so does the engine's (`engineStep_inv`). -/
theorem everyStepKeepsTheInvariant : Obligations.EveryStepKeepsTheInvariant := by
  unfold Obligations.EveryStepKeepsTheInvariant
  intro s t hinv h
  rcases step_cases h with ⟨hhost, hfree⟩ | ⟨-, hok, hbusy, e, hhost | heng⟩
  · exact (hostStep_move hhost).inv hinv fun hatt => (hfree hatt).1
  · exact (hostStep_move hhost).inv (hinv.env e) fun _ => hok
  · exact engineStep_inv (hinv.env e) hok hbusy heng

end Sys2Proof.Machine
end

section
/-! PROOFS. The host window (R36 to R46, R251, R265): the fields of each register word, what a host write changes, and
what clears a flag. -/
namespace Sys2Proof.Machine

/-! ## The fields of the register words -/

/-- A bit of a word is the bit of the field it lies in. -/
theorem getLsbD_of_field {n len start j : Nat} {w : BitVec n} {f : BitVec len} (h : w.extractLsb' start len = f)
    (hj : j < len) : w.getLsbD (start + j) = f.getLsbD j := by
  rw [← h, BitVec.getLsbD_extractLsb', decide_eq_true hj, Bool.true_and]

theorem getLsbD_of_bitField {n start : Nat} {w : BitVec n} {b : Bool}
    (h : w.extractLsb' start 1 = BitVec.ofBool b) : w.getLsbD start = b := by
  simpa using getLsbD_of_field h Nat.zero_lt_one

/-- A field that lies above the low part of a word is a field of the rest. -/
theorem field_above {v w start len : Nat} {hi : BitVec v} {lo : BitVec w} {f : BitVec len}
    (h : hi.extractLsb' (start - w) len = f) (hw : w ≤ start := by decide) : (hi ++ lo).extractLsb' start len = f :=
  (BitVec.extractLsb'_append_eq_of_le hw).trans h

/-- STATUS (R39). -/
theorem statusWord_fields (s : State) :
    s.statusWord.extractLsb' 0 8 = s.win.code.toByte ∧ s.statusWord.extractLsb' 8 8 = s.win.infoId ∧
    s.statusWord.extractLsb' 16 8 = s.win.infoAddr ∧ s.statusWord.extractLsb' 24 7 = 0 ∧
    s.statusWord.extractLsb' 31 1 = BitVec.ofBool s.eng.busy := by
  refine ⟨?_, ?_, ?_, ?_, ?_⟩ <;> repeat refine field_above ?_
  on_goal 5 => exact BitVec.extractLsb'_eq_self
  all_goals exact BitVec.extractLsb'_append_eq_right

/-- CLKSTATE (R41). -/
theorem clkstateWord_fields (s : State) :
    s.clkstateWord.extractLsb' 0 6 = consumerBits s.cfg s.clk.prepared ∧ s.clkstateWord.extractLsb' 6 2 = 0 ∧
    s.clkstateWord.extractLsb' 8 6 = consumerBits s.cfg s.clk.enabled ∧ s.clkstateWord.extractLsb' 14 2 = 0 ∧
    s.clkstateWord.extractLsb' 16 1 = BitVec.ofBool s.clk.gatePrepared ∧
    s.clkstateWord.extractLsb' 17 1 = BitVec.ofBool s.clk.gateEnabled ∧
    s.clkstateWord.extractLsb' 18 1 = BitVec.ofBool s.clk.masterClockEnabled ∧
    s.clkstateWord.extractLsb' 19 1 = BitVec.ofBool s.clk.settlePending ∧
    s.clkstateWord.extractLsb' 20 2 = muxField s.clk.muxSel ∧ s.clkstateWord.extractLsb' 22 10 = 0 := by
  refine ⟨?_, ?_, ?_, ?_, ?_, ?_, ?_, ?_, ?_, ?_⟩ <;> repeat refine field_above ?_
  on_goal 10 => exact BitVec.extractLsb'_eq_self
  all_goals exact BitVec.extractLsb'_append_eq_right

/-- Bit k of a clock field is clock k's (R21, R41). -/
theorem consumerBits_getLsbD (cfg : Config) (f : Consumer → Bool) (k : Consumer) :
    (consumerBits cfg f).getLsbD k.id = (clockPresent cfg k && f k) := by
  refine getLsbD_of_bitField ?_
  cases k <;> repeat refine field_above ?_
  on_goal 6 => exact BitVec.extractLsb'_eq_self
  all_goals exact BitVec.extractLsb'_append_eq_right

theorem consumer_id_lt (k : Consumer) : k.id < 6 := by
  cases k <;> decide

/-- CODECSTATE holds the bytes of the codecs (R42). -/
theorem codecstateWord_byte (s : State) (c : CodecId) {start len : Nat} (h : start + len ≤ 8) :
    s.codecstateWord.extractLsb' (8 * codecNum c + start) len = (s.codecByte c).extractLsb' start len := by
  cases c with
  | left =>
    refine (BitVec.extractLsb'_append_eq_of_add_le (by simp [codecNum]; omega)).trans ?_
    simp [codecNum]
  | right =>
    refine (BitVec.extractLsb'_append_eq_of_le (by simp [codecNum])).trans ?_
    rw [show 8 * codecNum .right + start - 8 = start by simp [codecNum]]
    exact BitVec.extractLsb'_append_eq_of_add_le h

theorem codecstateWord_reserved (s : State) : s.codecstateWord.extractLsb' 16 16 = 0 := by
  repeat refine field_above ?_
  exact BitVec.extractLsb'_eq_self

/-- The byte of a present codec (R42). -/
theorem codecByte_fields (s : State) {c : CodecId} (h : present s.cfg c = true) :
    (s.codecByte c).extractLsb' 0 2 = (s.codec c).pd.code ∧
    (s.codecByte c).extractLsb' 2 1 = BitVec.ofBool (s.codec c).sysclkValid ∧
    (s.codecByte c).extractLsb' 3 1 = BitVec.ofBool true ∧
    (s.codecByte c).extractLsb' 4 3 = diffCode (diffMode s.cfg c) ∧ (s.codecByte c).extractLsb' 7 1 = 0 := by
  unfold State.codecByte
  rw [if_pos h]
  refine ⟨?_, ?_, ?_, ?_, ?_⟩ <;> repeat refine field_above ?_
  on_goal 5 => exact BitVec.extractLsb'_eq_self
  all_goals exact BitVec.extractLsb'_append_eq_right

theorem codecByte_absent (s : State) {c : CodecId} (h : present s.cfg c = false) : s.codecByte c = 0 := by
  simp [State.codecByte, h]

theorem codecByte_reserved (s : State) (c : CodecId) : (s.codecByte c).extractLsb' 7 1 = 0 := by
  cases h : present s.cfg c with
  | true =>
    obtain ⟨-, -, -, -, hreserved⟩ := codecByte_fields s h
    exact hreserved
  | false => rw [codecByte_absent s h]; rfl

/-- FLAGS (R44). -/
theorem flagsWord_fields (s : State) :
    s.flagsWord.extractLsb' 0 1 = BitVec.ofBool s.win.glitchRisk ∧
    s.flagsWord.extractLsb' 1 1 = BitVec.ofBool s.win.teardownFault ∧ s.flagsWord.extractLsb' 2 30 = 0 := by
  refine ⟨?_, ?_, ?_⟩ <;> repeat refine field_above ?_
  on_goal 3 => exact BitVec.extractLsb'_eq_self
  all_goals exact BitVec.extractLsb'_append_eq_right

theorem statusWord_eq_zero {s : State} (hbusy : s.eng.busy = false) (hcode : s.win.code = .ok)
    (hid : s.win.infoId = 0) (haddr : s.win.infoAddr = 0) : s.statusWord = 0 := by
  rw [State.statusWord, hbusy, hcode, hid, haddr]
  decide

theorem flagsWord_eq_zero {s : State} (hglitch : s.win.glitchRisk = false) (hteardown : s.win.teardownFault = false) :
    s.flagsWord = 0 := by
  rw [State.flagsWord, hglitch, hteardown]
  decide

/-- Settles O11: each field of each register word is the one listed above. -/
theorem readbackRegistersReflectTheState : Obligations.ReadbackRegistersReflectTheState := by
  unfold Obligations.ReadbackRegistersReflectTheState
  refine ⟨⟨rfl, rfl, rfl, rfl, rfl, rfl, rfl, rfl, rfl, rfl, by decide⟩, fun s => ⟨rfl, rfl, rfl, rfl⟩, fun s => ?_,
    fun s => ?_, fun s c hc => ?_, fun s c hc => ?_, codecstateWord_reserved, fun s => ?_⟩
  · obtain ⟨hcode, hid, haddr, hreserved, hbusy⟩ := statusWord_fields s
    exact ⟨hcode.trans (by cases s.win.code <;> rfl), hid, haddr, hreserved, getLsbD_of_bitField hbusy⟩
  · obtain ⟨hprepared, hres6, henabled, hres14, hgp, hge, hmaster, hsettle, hmux, hres22⟩ := clkstateWord_fields s
    refine ⟨fun k => ⟨?_, ?_⟩, hres6, hres14, getLsbD_of_bitField hgp, getLsbD_of_bitField hge,
      getLsbD_of_bitField hmaster, getLsbD_of_bitField hsettle, hmux.trans ?_, hres22⟩
    · have hbit := getLsbD_of_field hprepared (consumer_id_lt k)
      rw [Nat.zero_add, consumerBits_getLsbD] at hbit
      exact hbit
    · exact (getLsbD_of_field henabled (consumer_id_lt k)).trans (consumerBits_getLsbD _ _ k)
    · rcases s.clk.muxSel with _ | _ | _ <;> rfl
  · obtain ⟨hpd, hvalid, hone, hdiff, hreserved⟩ := codecByte_fields s hc
    have hfield {start len : Nat} (h : start + len ≤ 8) := codecstateWord_byte s c h
    exact ⟨(hfield (start := 0) (by decide)).trans (hpd.trans (by cases (s.codec c).pd <;> rfl)),
      getLsbD_of_bitField ((hfield (by decide)).trans hvalid), getLsbD_of_bitField ((hfield (by decide)).trans hone),
      (hfield (by decide)).trans (hdiff.trans (by cases diffMode s.cfg c <;> rfl)),
      getLsbD_of_bitField ((hfield (by decide)).trans hreserved)⟩
  · refine (codecstateWord_byte s c (start := 0) (by decide)).trans ?_
    rw [codecByte_absent s hc]
    rfl
  · have hsysclk (c : CodecId) : s.sysclkWord c =
        if present s.cfg c ∧ (s.codec c).sysclkValid then (s.codec c).sysclk else 0 := by
      simp [State.sysclkWord]
    exact ⟨hsysclk .left, hsysclk .right⟩

/-! ## The host's writes -/

variable {s t : State}

theorem hostReg_eq_some {cfg : Config} {addr width : Nat} {r : WindowReg} :
    hostReg cfg addr width = some r ↔
      width = 32 ∧ ∃ off, addr = cfg.windowBase + off ∧ windowReg off = some r := by
  unfold hostReg
  constructor
  · intro h
    split at h
    · next hw => exact ⟨hw.1, _, (Nat.add_sub_of_le hw.2).symm, h⟩
    · exact nomatch h
  · rintro ⟨rfl, off, rfl, h⟩
    rw [if_pos ⟨rfl, Nat.le_add_right _ _⟩, Nat.add_sub_cancel_left, h]

/-- The write of a defined offset of the window is a write of its register (R64, R104). -/
theorem State.hostStep_write {off : Nat} {v : Word} {rest : List HostAction} {r : WindowReg}
    (hatt : s.attached = true) (hheld : s.held = none)
    (hact : s.host.actions = .write (s.cfg.windowBase + off) 32 v :: rest) (hr : windowReg off = some r) :
    s.hostStep = .next ((s.hostDone rest).hostWrite r v) := by
  have hreg : hostReg s.cfg (s.cfg.windowBase + off) 32 = some r := hostReg_eq_some.mpr ⟨rfl, off, rfl, hr⟩
  rw [State.hostStep_of_action hheld hact, State.hostAct, State.access, if_pos hatt, hreg]

/-- A write of a read-only register or a reserved offset is ignored (R45). -/
theorem State.hostWrite_ignored (s : State) {r : WindowReg} (hr : r.holds = false) (v : Word) :
    s.hostWrite r v = s := by
  unfold State.hostWrite
  rw [hr, Bool.and_false, if_neg Bool.false_ne_true]
  cases r with
  | cmd | arg0 | arg1 | flags => exact nomatch hr
  | _ => rfl

/-- Settles O9: the registers that hold no write ignore it (`hostWrite_ignored`); the reserved bits are fields of the
register words. -/
theorem readOnlyWritesAreIgnored : Obligations.ReadOnlyWritesAreIgnored := by
  unfold Obligations.ReadOnlyWritesAreIgnored
  refine ⟨fun s off v rest hoff hatt hheld hact => ?_, fun s => ?_, by decide⟩
  · have hreadOnly : ∀ off ∈ [0x0C, 0x10, 0x14, 0x18, 0x1C, 0x20, 0x28, 0x2C, 0x30, 0x34, 0x38, 0x3C],
        (windowReg off).map WindowReg.holds = some false := by decide
    obtain ⟨r, hr, hholds⟩ := Option.map_eq_some_iff.mp (hreadOnly off hoff)
    rw [State.hostStep_write hatt hheld hact hr, State.hostWrite_ignored _ hholds]
    rfl
  · obtain ⟨-, -, -, hstatus, -⟩ := statusWord_fields s
    obtain ⟨-, hres6, -, hres14, -, -, -, -, -, hres22⟩ := clkstateWord_fields s
    obtain ⟨-, -, hflags⟩ := flagsWord_fields s
    have hbyte (c : CodecId) := (codecstateWord_byte s c (start := 7) (by decide)).trans (codecByte_reserved s c)
    exact ⟨rfl, hstatus, hres6, hres14, hres22, hbyte .left, hbyte .right, codecstateWord_reserved s, hflags⟩

/-- Settles O12, field by field; the two register words by their fields. -/
theorem resetStateIsAsListed : Obligations.ResetStateIsAsListed := by
  unfold Obligations.ResetStateIsAsListed
  intro cfg s
  have hclocks (k : Consumer) : s.clk.prepared k = false ∧ s.clk.enabled k = false := by
    cases k <;> exact ⟨rfl, rfl⟩
  have hcodecs : ∀ c, s.codec c = CodecState.reset := resetWith_codec cfg
  have hshadow (c : CodecId) (a : Nat) : s.shadow c a = some (resetDefault cfg a) := by
    rw [State.shadow, hcodecs]
    rfl
  exact ⟨rfl, hclocks, rfl, rfl, rfl, rfl, rfl, fun c => by rw [hcodecs]; exact ⟨rfl, rfl, rfl⟩, hshadow, rfl, rfl, rfl,
    rfl, rfl, rfl, rfl, rfl, statusWord_eq_zero rfl rfl rfl rfl, rfl, flagsWord_eq_zero rfl rfl⟩

/-! ## The flags (R44, R265) -/

/-- The two flags of FLAGS (R44). -/
inductive Flag where
  | glitchRisk | teardownFault

/-- Its bit in FLAGS. -/
def Flag.bit : Flag → Nat
  | .glitchRisk => 0
  | .teardownFault => 1

/-- Its stored value. -/
def Flag.isSet (f : Flag) (w : Window) : Bool :=
  match f with
  | .glitchRisk => w.glitchRisk
  | .teardownFault => w.teardownFault

theorem Flag.isSet_clearFlags (f : Flag) (w : Window) (v : Word) :
    f.isSet (w.clearFlags v) = (f.isSet w && !v.getLsbD f.bit) := by
  cases f <;> rfl

/-- Only a write of 1 to its bit of FLAGS clears a flag. -/
theorem Flag.cleared_by_write (f : Flag) {r : WindowReg} {v : Word} (hs : f.isSet s.win = true)
    (ht : f.isSet (s.writeWindow r v).win = false) : r = .flags ∧ v.getLsbD f.bit = true := by
  have hkept (h : f.isSet (s.writeWindow r v).win = f.isSet s.win) : r = .flags ∧ v.getLsbD f.bit = true := by
    rw [ht, hs] at h
    exact nomatch h
  cases r with
  | flags =>
    have hclear := (f.isSet_clearFlags s.win v).symm.trans ht
    rw [hs] at hclear
    exact ⟨rfl, by simpa using hclear⟩
  | cmd | arg0 | arg1 => exact hkept (by cases f <;> rfl)
  | _ => exact hkept rfl

theorem windowReg_eq_flags {off : Nat} (h : windowReg off = some .flags) : off = 0x24 := by
  unfold windowReg at h
  split at h
  on_goal 11 => split at h
  all_goals cases h
  rfl

/-- The host's move clears a flag only by writing 1 to it with the engine idle, or by an attach or a detach. -/
theorem HostMove.clears (h : HostMove s t) (f : Flag) (hs : f.isSet s.win = true) (ht : f.isSet t.win = false) :
    writesFlagOne s f.bit ∨ attachesOrDetaches s := by
  cases h with
  | own hkept =>
    obtain ⟨-, -, -, -, -, -, hwin, -⟩ := hkept
    rw [hwin, hs] at ht
    exact nomatch ht
  | write addr width v rest r _ hheld hact hreg h =>
    rw [h, State.hostWrite] at ht
    split at ht
    · exact nomatch hs.symm.trans ht
    · next hfree =>
      obtain ⟨rfl, hv⟩ := f.cleared_by_write (s := s.hostDone rest) hs ht
      obtain ⟨rfl, off, rfl, hoff⟩ := hostReg_eq_some.mp hreg
      obtain rfl := windowReg_eq_flags hoff
      exact .inl ⟨by simpa [WindowReg.holds] using hfree, v, hv, .inr ⟨hheld, rest, hact⟩⟩
  | release w hheld hidle h =>
    rw [h] at ht
    obtain ⟨hreg, hv⟩ := f.cleared_by_write (s := { s with held := none }) hs ht
    exact .inl ⟨hidle, w.value, hv, .inl (by rw [hheld, ← hreg])⟩
  | attach cfg b rest hatt hheld hact => exact .inr ⟨hheld, .inl ⟨hatt, cfg, b, rest, hact⟩⟩
  | detach rest hatt hheld hact hidle => exact .inr ⟨hheld, .inr ⟨hatt, hidle, rest, hact⟩⟩

/-- An engine step clears no flag. -/
theorem engineStep_flagsSticky (h : engineStep s = .next t) (f : Flag) (hs : f.isSet s.win = true) :
    f.isSet t.win = true := by
  rcases engineStep_cases h with ⟨i, -, hexec⟩ | ⟨e, -, rfl⟩
  · obtain ⟨hglitch, hteardown⟩ := (exec_shape hexec).flagsSticky
    cases f with
    | glitchRisk => exact hglitch hs
    | teardownFault => exact hteardown hs
  · cases f <;> exact hs

theorem step_clears (h : step s = .next t) (f : Flag) (hs : f.isSet s.win = true) (ht : f.isSet t.win = false) :
    writesFlagOne s f.bit ∨ attachesOrDetaches s := by
  rcases step_cases h with ⟨hhost, -⟩ | ⟨-, -, -, e, hhost | heng⟩
  · exact (hostStep_move hhost).clears f hs ht
  · exact (hostStep_move hhost).clears f hs ht
  · exact nomatch (engineStep_flagsSticky heng f hs).symm.trans ht

/-- A host write to FLAGS while the engine is idle (R44). -/
theorem hostStep_write_flags {v : Word} {rest : List HostAction} (hatt : s.attached = true)
    (hidle : s.eng.busy = false) (hheld : s.held = none)
    (hact : s.host.actions = .write (s.cfg.windowBase + 0x24) 32 v :: rest) :
    s.hostStep = .next ((s.hostDone rest).onWin fun w => w.clearFlags v) := by
  have hnow : (s.hostDone rest).hostWrite .flags v = (s.hostDone rest).writeWindow .flags v := by
    rw [State.hostWrite, State.hostDone_eq, State.onHost_eng, hidle, Bool.false_and, if_neg Bool.false_ne_true]
  rw [State.hostStep_write hatt hheld hact rfl, hnow]
  rfl

theorem clearFlags_eq (w : Window) (v : Word) :
    w.clearFlags v = { w with
      glitchRisk := if v.getLsbD 0 then false else w.glitchRisk
      teardownFault := if v.getLsbD 1 then false else w.teardownFault } := by
  unfold Window.clearFlags
  cases v.getLsbD 0 <;> cases v.getLsbD 1 <;> simp

/-- Settles O10: the engine clears no flag, the host only by `HostMove.clears`. -/
theorem flagsAreStickyUntilTheHostClearsThem : Obligations.FlagsAreStickyUntilTheHostClearsThem := by
  unfold Obligations.FlagsAreStickyUntilTheHostClearsThem
  refine ⟨fun s => ?_, fun i s t h => (exec_shape h).flagsSticky, fun s v rest hatt hidle hheld hact => ?_,
    fun s t h => ⟨step_clears h .glitchRisk, step_clears h .teardownFault⟩⟩
  · obtain ⟨hglitch, hteardown, -⟩ := flagsWord_fields s
    exact ⟨getLsbD_of_bitField hglitch, getLsbD_of_bitField hteardown⟩
  · rw [hostStep_write_flags hatt hidle hheld hact, State.onWin, clearFlags_eq]
    rfl

end Sys2Proof.Machine
end

section
/-! PROOFS. Memory (R62, R64, R69 to R76): which host accesses have no step, and what the reference codec does with a
write. -/
namespace Sys2Proof.Machine

/-! ## Host accesses with no step (R64, R275) -/

/-- The offsets that name no register: outside the 64-byte window, or no multiple of 4 (R36, R64). -/
theorem windowReg_eq_none_iff {off : Nat} : windowReg off = none ↔ 64 ≤ off ∨ off % 4 ≠ 0 := by
  unfold windowReg
  split
  on_goal 11 =>
    split
    · next hin => simp [hin.1, hin.2]
    · next hout =>
      rw [not_and_or, not_lt] at hout
      exact iff_of_true rfl hout
  all_goals decide

theorem hostReg_eq_none_iff {cfg : Config} {addr width : Nat} :
    hostReg cfg addr width = none ↔
      width ≠ 32 ∨ addr < cfg.windowBase ∨ cfg.windowBase + 64 ≤ addr ∨ (addr - cfg.windowBase) % 4 ≠ 0 := by
  unfold hostReg
  split
  · next hin => rw [windowReg_eq_none_iff]; omega
  · next hout => exact iff_of_true rfl (by omega)

/-- An access of an attached block is refused exactly where it names no register (R64). -/
theorem State.access_refused_iff {s : State} {addr width : Nat} {k : WindowReg → State} (hatt : s.attached = true) :
    s.access addr width k = .refused .hostAccessUndefined ↔ hostReg s.cfg addr width = none := by
  rw [State.access, if_pos hatt]
  cases hostReg s.cfg addr width <;> simp

/-- Settles O8: a read and a write make the same access, refused where no register is named. -/
theorem undefinedHostAccessesHaveNoStep : Obligations.UndefinedHostAccessesHaveNoStep := by
  unfold Obligations.UndefinedHostAccessesHaveNoStep
  intro s addr width v rest hatt hheld hact
  rw [← hostReg_eq_none_iff]
  rcases hact with hread | hwrite
  · rw [State.hostStep_of_action hheld hread]
    exact State.access_refused_iff hatt
  · rw [State.hostStep_of_action hheld hwrite]
    exact State.access_refused_iff hatt

/-! ## The reference codec (R69 to R76) -/

section Commit

variable (r : RefCodec) (ch ch' : Channel) (v : Nat)

@[simp] theorem RefCodec.holdLsb_setHoldLsb_same : (r.setHoldLsb ch v).holdLsb ch = v := by cases ch <;> rfl

@[simp] theorem RefCodec.active_setHoldLsb : (r.setHoldLsb ch v).active ch' = r.active ch' := by cases ch <;> rfl

@[simp] theorem RefCodec.holdLsb_setActive : (r.setActive ch v).holdLsb ch' = r.holdLsb ch' := by cases ch <;> rfl

@[simp] theorem RefCodec.active_setActive_same : (r.setActive ch v).active ch = some v := by cases ch <;> rfl

theorem RefCodec.active_setActive_ne (h : ch' ≠ ch) : (r.setActive ch v).active ch' = r.active ch' :=
  match ch, ch', h with
  | .ch0, .ch1, _ | .ch1, .ch0, _ => rfl

end Commit

section Take

variable (cfg : Config) (r : RefCodec) (ch : Channel) (a v : Nat)

/-- The write of v to register a that only stores: what every write does, and all an MSB write without the latch bit
does (R72). -/
def RefCodec.store : RefCodec := { r with reg := Memory.write (resetDefault cfg) r.reg a v }

@[simp] theorem RefCodec.holdLsb_store : (r.store cfg a v).holdLsb ch = r.holdLsb ch := by cases ch <;> rfl

@[simp] theorem RefCodec.active_store : (r.store cfg a v).active ch = r.active ch := by cases ch <;> rfl

variable {cfg r}

/-- A taken write is read back from its register. -/
theorem RefCodec.readReg_take_same (hwf : Memory.wf (resetDefault cfg) r.reg) :
    (r.take cfg a v).readReg cfg a = v := by
  rw [RefCodec.readReg, RefCodec.take_reg, Memory.read_write_same _ hwf]

variable (hok : configOk cfg = true)
include hok

/-- An LSB write is held (R70). -/
theorem RefCodec.take_lsb :
    r.take cfg (addrAttLsb cfg ch) v = (r.store cfg (addrAttLsb cfg ch) v).setHoldLsb ch (v % 2 ^ cfg.volLsbBits) := by
  rw [RefCodec.take, lsbChannel_lsb hok]
  rfl

/-- An MSB write with the latch bit commits the new high field with the held low field (R71). -/
theorem RefCodec.take_msb_latched (hlatch : v &&& cfg.latchMask ≠ 0) :
    r.take cfg (addrAttMsb cfg ch) v =
      (r.store cfg (addrAttMsb cfg ch) v).setActive ch
        (v % 2 ^ (10 - cfg.volLsbBits) * 2 ^ cfg.volLsbBits + r.holdLsb ch) := by
  rw [RefCodec.take, lsbChannel_msb hok, msbChannel_msb hok]
  exact if_pos hlatch

/-- An MSB write without the latch bit only stores (R72). -/
theorem RefCodec.take_msb_unlatched (hlatch : v &&& cfg.latchMask = 0) :
    r.take cfg (addrAttMsb cfg ch) v = r.store cfg (addrAttMsb cfg ch) v := by
  rw [RefCodec.take, lsbChannel_msb hok, msbChannel_msb hok]
  exact if_neg (not_not_intro hlatch)

end Take

/-- Settles O57: an LSB write is `take_lsb`; an MSB write is `take_msb_latched` or `take_msb_unlatched`, by its latch
bit. -/
theorem referenceCodecLatchesOnTheMsbWrite : Obligations.ReferenceCodecLatchesOnTheMsbWrite := by
  unfold Obligations.ReferenceCodecLatchesOnTheMsbWrite
  intro cfg r ch ch' v hok hwf
  refine ⟨⟨RefCodec.readReg_take_same _ v hwf, ?_, ?_⟩, RefCodec.readReg_take_same _ v hwf, ?_⟩
  · rw [RefCodec.take_lsb ch v hok, RefCodec.holdLsb_setHoldLsb_same]
  · rw [RefCodec.take_lsb ch v hok, RefCodec.active_setHoldLsb, RefCodec.active_store]
  · by_cases hlatch : v &&& cfg.latchMask = 0
    · rw [RefCodec.take_msb_unlatched ch v hok hlatch]
      exact ⟨RefCodec.holdLsb_store .., fun hset => absurd hlatch hset, fun _ => RefCodec.active_store ..⟩
    · rw [RefCodec.take_msb_latched ch v hok hlatch]
      refine ⟨by rw [RefCodec.holdLsb_setActive, RefCodec.holdLsb_store],
        fun _ => RefCodec.active_setActive_same .., fun hother => ?_⟩
      rw [RefCodec.active_setActive_ne _ _ _ _ (hother.resolve_left hlatch), RefCodec.active_store]

/-! ## The answer of a write (R62, R76) -/

/-- A write answered `ok` is taken (R62). -/
theorem RefModel.write_codec_of_ok {cfg : Config} {m : RefModel} {c : CodecId} {a v : Nat} {d : Answer}
    (hplug : m.plugged = true) (hok : d.ok = true) : (m.write cfg c a v d).codec c = (m.codec c).take cfg a v := by
  rw [RefModel.write_codec_same, hplug, hok]
  rfl

/-- A write answered `fail` lands where the draw says so (R76). -/
theorem RefModel.write_codec_of_fail {cfg : Config} {m : RefModel} {c : CodecId} {a v : Nat} {d : Answer}
    (hplug : m.plugged = true) (hfail : d.ok = false) :
    (m.write cfg c a v d).codec c = if d.taken then (m.codec c).take cfg a v else m.codec c := by
  rw [RefModel.write_codec_same, hplug, hfail]
  rfl

/-- The answer `fail`, with the draw whether the codec took the value (R76). -/
def failedWith (taken : Bool) : Answer := { ok := false, value := 0, taken := taken, extraMs := 0 }

/-- Settles O58: `ok` is taken, and `failedWith` gives both outcomes of `fail`. -/
theorem failedWriteMayOrMayNotLand : Obligations.FailedWriteMayOrMayNotLand := by
  unfold Obligations.FailedWriteMayOrMayNotLand
  intro cfg m c c' a v hplug hne
  refine ⟨fun d hok => RefModel.write_codec_of_ok hplug hok,
    ⟨failedWith true, rfl, RefModel.write_codec_of_fail hplug rfl⟩,
    ⟨failedWith false, rfl, RefModel.write_codec_of_fail hplug rfl⟩,
    fun d => ?_, fun d => RefModel.write_codec_ne cfg m a v d hne⟩
  rw [RefModel.write_codec_same]
  exact ite_eq_or_eq ..

end Sys2Proof.Machine
end

section
/-! PROOFS. The command word (R90 to R100): the fields partition it, a row of the opcode table with its operand fields
read is the command's encoding, so decoding undoes encoding, and the words that are no encoding are the illegal ones. -/
namespace Sys2Proof

variable {n : NumCodecs} {i : Instr} {w m : Word}
variable {desc : BitVec 3} {ch : BitVec 1} {cset grp : BitVec 2} {opc : BitVec 8}

/-! ## The fields of a word (R91) -/

theorem toNat_append_eq_add {m n : Nat} (x : BitVec m) (y : BitVec n) :
    (x ++ y).toNat = x.toNat * 2 ^ n + y.toNat := by
  rw [BitVec.toNat_append, ← Nat.shiftLeft_add_eq_or_of_lt y.isLt, Nat.shiftLeft_eq]

theorem packWord_toNat (desc : BitVec 3) (ch : BitVec 1) (cset grp : BitVec 2) (opc : BitVec 8) :
    (packWord desc ch cset grp opc).toNat =
      desc.toNat * 2 ^ 13 + ch.toNat * 2 ^ 12 + cset.toNat * 2 ^ 10 + grp.toNat * 2 ^ 8 + opc.toNat := by
  unfold packWord
  iterate 5 rw [toNat_append_eq_add]
  rw [BitVec.ofNat_eq_ofNat, BitVec.toNat_zero]
  omega

/-- A word is packed from given fields exactly when these are its fields: they partition its 32 bits. -/
theorem packWord_eq_iff : packWord desc ch cset grp opc = w ↔
    fieldRsv w = 0 ∧ fieldOpc w = opc ∧ fieldGrp w = grp ∧ fieldDesc w = desc ∧ fieldCh w = ch ∧
    fieldCset w = cset := by
  simp only [← BitVec.toNat_inj, packWord_toNat, fieldRsv, fieldDesc, fieldCh, fieldCset, fieldGrp, fieldOpc,
    BitVec.extractLsb'_toNat, Nat.shiftRight_eq_div_pow, BitVec.ofNat_eq_ofNat, BitVec.toNat_zero]
  omega

/-- The match of R98 field by field. -/
theorem fields_of_and_eq (h : w &&& m = packWord 0 0 0 0 opc) :
    fieldRsv w &&& fieldRsv m = 0 ∧ fieldOpc w &&& fieldOpc m = opc ∧ fieldGrp w &&& fieldGrp m = 0 ∧
    fieldDesc w &&& fieldDesc m = 0 ∧ fieldCh w &&& fieldCh m = 0 ∧ fieldCset w &&& fieldCset m = 0 := by
  simpa only [fieldRsv, fieldDesc, fieldCh, fieldCset, fieldGrp, fieldOpc, BitVec.extractLsb'_and] using
    packWord_eq_iff.mp h.symm

/-! ## The values of a field (R92 to R95) -/

theorem groupOf_eq_some {v : BitVec 2} {g : Group} : groupOf v = some g ↔ v = g.code := by
  cases g <;> revert v <;> decide

theorem codecSetOf_eq_some {v : BitVec 2} {cs : CodecSet} : codecSetOf v = some cs ↔ v = cs.code := by
  cases cs <;> revert v <;> decide

theorem oneCodecOf_eq_some {v : BitVec 2} {c : CodecId} : oneCodecOf v = some c ↔ v = c.cset := by
  cases c <;> revert v <;> decide

theorem controlOf_eq_some {v : BitVec 3} {d : Control} : controlOf v = some d ↔ v = d.code := by
  cases d <;> revert v <;> decide

theorem channelOf_code (v : BitVec 1) : (channelOf v).code = v := by
  revert v
  decide

theorem exists_group_code {v : BitVec 2} : (∃ g : Group, v = g.code) ↔ v.toNat < 3 := by
  simp only [← groupOf_eq_some, ← Option.isSome_iff_exists]
  revert v
  decide

theorem exists_channel_code {v : BitVec 1} : ∃ c : Channel, v = c.code := ⟨_, (channelOf_code v).symm⟩

theorem exists_control_code {v : BitVec 3} : (∃ d : Control, v = d.code) ↔ v.toNat < 3 := by
  simp only [← controlOf_eq_some, ← Option.isSome_iff_exists]
  revert v
  decide

/-- CSET names a set of present codecs (R93, R99). -/
theorem exists_codecSet_code {v : BitVec 2} : (∃ cs : CodecSet, v = cs.code ∧ cs.codecs.all n.has = true) ↔
    1 ≤ v.toNat ∧ ¬(n = .one ∧ 2 ≤ v.toNat) := by
  simp only [← codecSetOf_eq_some, ← Option.any_eq_true]
  cases n <;> revert v <;> decide

/-- CSET names exactly one codec, and it is present (R93, R99). -/
theorem exists_codecId_cset {v : BitVec 2} : (∃ c : CodecId, v = c.cset ∧ n.has c = true) ↔
    (1 ≤ v.toNat ∧ v.toNat < 3) ∧ ¬(n = .one ∧ 2 ≤ v.toNat) := by
  simp only [← oneCodecOf_eq_some, ← Option.any_eq_true]
  cases n <;> revert v <;> decide

/-! ## A row of the table and its command (R98) -/

theorem eq_of_and_allOnes {k : Nat} {x y : BitVec k} (h : x &&& .allOnes k = y) : x = y :=
  BitVec.and_allOnes.symm.trans h

/-- The mask of the rows that use GRP. -/
theorem packWord_of_grpMask {g : Group} (h : w &&& 0xFFFFFCFF = packWord 0 0 0 0 opc)
    (hg : groupOf (fieldGrp w) = some g) : packWord 0 0 0 g.code opc = w := by
  obtain ⟨hrsv, hopc, -, hdesc, hch, hcset⟩ := fields_of_and_eq h
  exact packWord_eq_iff.mpr ⟨eq_of_and_allOnes hrsv, eq_of_and_allOnes hopc, groupOf_eq_some.mp hg,
    eq_of_and_allOnes hdesc, eq_of_and_allOnes hch, eq_of_and_allOnes hcset⟩

/-- The mask of the rows that use CSET. -/
theorem packWord_of_csetMask {cs : CodecSet} (h : w &&& 0xFFFFF3FF = packWord 0 0 0 0 opc)
    (hcs : codecSetOf (fieldCset w) = some cs) : packWord 0 0 cs.code 0 opc = w := by
  obtain ⟨hrsv, hopc, hgrp, hdesc, hch, -⟩ := fields_of_and_eq h
  exact packWord_eq_iff.mpr ⟨eq_of_and_allOnes hrsv, eq_of_and_allOnes hopc, eq_of_and_allOnes hgrp,
    eq_of_and_allOnes hdesc, eq_of_and_allOnes hch, codecSetOf_eq_some.mp hcs⟩

/-- The mask of the rows that use CSET and CH. -/
theorem packWord_of_chMask {c : CodecId} (h : w &&& 0xFFFFE3FF = packWord 0 0 0 0 opc)
    (hc : oneCodecOf (fieldCset w) = some c) : packWord 0 (channelOf (fieldCh w)).code c.cset 0 opc = w := by
  obtain ⟨hrsv, hopc, hgrp, hdesc, -, -⟩ := fields_of_and_eq h
  exact packWord_eq_iff.mpr ⟨eq_of_and_allOnes hrsv, eq_of_and_allOnes hopc, eq_of_and_allOnes hgrp,
    eq_of_and_allOnes hdesc, (channelOf_code _).symm, oneCodecOf_eq_some.mp hc⟩

/-- The mask of the rows that use CSET and DESC. -/
theorem packWord_of_descMask {cs : CodecSet} {d : Control} (h : w &&& 0xFFFF13FF = packWord 0 0 0 0 opc)
    (hcs : codecSetOf (fieldCset w) = some cs) (hd : controlOf (fieldDesc w) = some d) :
    packWord d.code 0 cs.code 0 opc = w := by
  obtain ⟨hrsv, hopc, hgrp, -, hch, -⟩ := fields_of_and_eq h
  exact packWord_eq_iff.mpr ⟨eq_of_and_allOnes hrsv, eq_of_and_allOnes hopc, eq_of_and_allOnes hgrp,
    controlOf_eq_some.mp hd, eq_of_and_allOnes hch, codecSetOf_eq_some.mp hcs⟩

/-- A command read from a word that selects its row has that word as its encoding. The rows of the table use, in
order, GRP, no field, CSET, CSET and CH, CSET and DESC. -/
theorem encode_of_readFields {r : Row} (hr : r ∈ opcodeRows) (hs : r.selects w = true)
    (h : readFields r.op w = .ok i) : encode i = w := by
  replace hs : w &&& r.mask = r.pattern := eq_of_beq hs
  simp only [opcodeRows, List.mem_cons, List.not_mem_nil, or_false] at hr
  rcases hr with rfl | rfl | rfl | rfl | rfl | rfl | rfl | rfl | rfl | rfl | rfl | rfl | rfl | rfl <;>
    simp only [readFields] at h
  iterate 4
    · split at h <;> cases h
      exact packWord_of_grpMask hs ‹_›
  iterate 2
    · cases h
      exact (eq_of_and_allOnes hs).symm
  iterate 4
    · split at h <;> cases h
      exact packWord_of_csetMask hs ‹_›
  iterate 2
    · split at h <;> cases h
      exact packWord_of_chMask hs ‹_›
  iterate 2
    · split at h <;> cases h
      exact packWord_of_descMask hs ‹_› ‹_›

/-- The word of every command selects a row, which reads the command back. -/
theorem encode_tableRow (i : Instr) : Laws.TableRow.Statement i := by
  cases i with
  | prepareAll g => exact Laws.TableRow.prepareAll g
  | enableAll g => exact Laws.TableRow.enableAll g
  | disableAll g => exact Laws.TableRow.disableAll g
  | unprepareAll g => exact Laws.TableRow.unprepareAll g
  | selectMaster => exact Laws.TableRow.selectMaster
  | releaseMaster => exact Laws.TableRow.releaseMaster
  | applyStartup cs => exact Laws.TableRow.applyStartup cs
  | setFmtSysclk cs => exact Laws.TableRow.setFmtSysclk cs
  | powerUp cs => exact Laws.TableRow.powerUp cs
  | powerDown cs => exact Laws.TableRow.powerDown cs
  | setVolume c ch => exact Laws.TableRow.setVolume c ch
  | getVolume c ch => exact Laws.TableRow.getVolume c ch
  | readSynced cs d => exact Laws.TableRow.readSynced cs d
  | writeSynced cs d => exact Laws.TableRow.writeSynced cs d

/-! ## Decoding (R99) -/

theorem encode_of_decode (h : decode n w = .ok i) : encode i = w := by
  unfold decode at h
  split at h
  · exact nomatch h
  · next r hr =>
    split at h
    · exact nomatch h
    · next hi =>
      split at h <;> cases h
      exact encode_of_readFields (List.mem_of_find?_eq_some hr) (List.find?_eq_some_iff_append.mp hr).1 hi

theorem decode_encode (hwf : i.wellFormed n = true) : decode n (encode i) = .ok i := by
  obtain ⟨r, hr, hi⟩ := encode_tableRow i
  simp [decode, hr, hi, hwf]

theorem decode_eq_ok_iff : decode n w = .ok i ↔ encode i = w ∧ i.wellFormed n = true := by
  constructor
  · exact fun h => ⟨encode_of_decode h, Machine.decode_wellFormed h⟩
  · rintro ⟨rfl, hwf⟩
    exact decode_encode hwf

/-- Settles O2: `encode_of_decode` one way, `decode_encode` the other. -/
theorem decodeAcceptsExactlyTheEncodings : Obligations.DecodeAcceptsExactlyTheEncodings := by
  unfold Obligations.DecodeAcceptsExactlyTheEncodings
  exact fun _ _ _ => decode_eq_ok_iff

/-! ## Illegal words (R100) -/

theorem decode_eq_error_iff : (∃ e, decode n w = .error e) ↔ ¬∃ i, encode i = w ∧ i.wellFormed n = true := by
  simp only [← decode_eq_ok_iff]
  cases decode n w <;> simp

/-- A command is one of the fourteen of R97. -/
theorem exists_instr_iff {p : Instr → Prop} : (∃ i, p i) ↔
    (∃ g, p (.prepareAll g)) ∨ (∃ g, p (.enableAll g)) ∨ (∃ g, p (.disableAll g)) ∨ (∃ g, p (.unprepareAll g)) ∨
    p .selectMaster ∨ p .releaseMaster ∨
    (∃ cs, p (.applyStartup cs)) ∨ (∃ cs, p (.setFmtSysclk cs)) ∨ (∃ cs, p (.powerUp cs)) ∨
    (∃ cs, p (.powerDown cs)) ∨ (∃ c ch, p (.setVolume c ch)) ∨ (∃ c ch, p (.getVolume c ch)) ∨
    (∃ cs d, p (.readSynced cs d)) ∨ (∃ cs d, p (.writeSynced cs d)) := by
  constructor
  · rintro ⟨i, h⟩
    by_contra hnone
    simp only [not_or, not_exists] at hnone
    cases i <;> simp [hnone] at h
  · rintro (⟨_, h⟩ | ⟨_, h⟩ | ⟨_, h⟩ | ⟨_, h⟩ | h | h | ⟨_, h⟩ | ⟨_, h⟩ | ⟨_, h⟩ | ⟨_, h⟩ | ⟨_, _, h⟩ | ⟨_, _, h⟩ |
      ⟨_, _, h⟩ | ⟨_, _, h⟩) <;> exact ⟨_, h⟩

/-- The legal words by their fields, in the order of R98: the rows that use GRP, no field, CSET, CSET and CH, CSET and
DESC. -/
theorem exists_encode_iff : (∃ i, encode i = w ∧ i.wellFormed n = true) ↔
    fieldRsv w = 0 ∧
    (fieldOpc w ∈ [1, 2, 3, 4] ∧ (fieldGrp w).toNat < 3 ∧ fieldDesc w = 0 ∧ fieldCh w = 0 ∧ fieldCset w = 0 ∨
     fieldOpc w ∈ [5, 6] ∧ fieldGrp w = 0 ∧ fieldDesc w = 0 ∧ fieldCh w = 0 ∧ fieldCset w = 0 ∨
     fieldOpc w ∈ [0x10, 0x11, 0x12, 0x13] ∧ fieldGrp w = 0 ∧ fieldDesc w = 0 ∧ fieldCh w = 0 ∧
       1 ≤ (fieldCset w).toNat ∧ ¬(n = .one ∧ 2 ≤ (fieldCset w).toNat) ∨
     fieldOpc w ∈ [0x14, 0x15] ∧ fieldGrp w = 0 ∧ fieldDesc w = 0 ∧
       (1 ≤ (fieldCset w).toNat ∧ (fieldCset w).toNat < 3) ∧ ¬(n = .one ∧ 2 ≤ (fieldCset w).toNat) ∨
     fieldOpc w ∈ [0x16, 0x17] ∧ fieldGrp w = 0 ∧ (fieldDesc w).toNat < 3 ∧ fieldCh w = 0 ∧
       1 ≤ (fieldCset w).toNat ∧ ¬(n = .one ∧ 2 ≤ (fieldCset w).toNat)) := by
  simp only [exists_instr_iff, encode, packWord_eq_iff, Instr.wellFormed, Instr.codecs, List.all_nil, List.all_cons,
    Bool.and_true, and_true, true_and, and_assoc, exists_and_left, exists_and_right, exists_group_code,
    exists_channel_code, exists_control_code, exists_codecSet_code, exists_codecId_cset]
  simp only [List.mem_cons, List.not_mem_nil, or_false, and_or_left, or_and_right, or_assoc]

theorem Machine.engineStep_of_illegal {s : Machine.State} {e : Illegal} (h : s.command = .error e) :
    Machine.engineStep s = .next s.endIllegal := by
  rw [Machine.engineStep, h]

/-- Settles O3: a word is illegal when it has none of the shapes of `exists_encode_iff`, which are told apart by OPC;
`endIllegal` only raises the code. -/
theorem illegalWordsAreTheListedOnes : Obligations.IllegalWordsAreTheListedOnes := by
  unfold Obligations.IllegalWordsAreTheListedOnes
  refine ⟨fun n w => ?_, fun s e he =>
    ⟨s.endIllegal, Machine.engineStep_of_illegal he, ⟨rfl, rfl, rfl, rfl, rfl⟩, rfl⟩⟩
  rw [decode_eq_error_iff, exists_encode_iff]
  simp only [fieldRsv, fieldDesc, fieldCh, fieldCset, fieldGrp, fieldOpc, List.mem_cons, List.not_mem_nil, or_false,
    ← BitVec.toNat_inj, BitVec.ofNat_eq_ofNat, BitVec.toNat_ofNat, Nat.reducePow, Nat.reduceMod]
  generalize (w.extractLsb' 0 8).toNat = opc
  cases n <;> simp only [reduceCtorEq, true_and, false_and, and_false, false_or, not_false_eq_true, and_true]
  all_goals
    constructor
    · intro hillegal
      by_contra hunlisted
      obtain hopc | hopc | hopc | hopc | hopc : (1 ≤ opc ∧ opc ≤ 4) ∨ (5 ≤ opc ∧ opc ≤ 6) ∨
        (0x10 ≤ opc ∧ opc ≤ 0x13) ∨ (0x14 ≤ opc ∧ opc ≤ 0x15) ∨ (0x16 ≤ opc ∧ opc ≤ 0x17) := by omega
      · exact hillegal ⟨by omega, .inl (by omega)⟩
      · exact hillegal ⟨by omega, .inr (.inl (by omega))⟩
      · exact hillegal ⟨by omega, .inr (.inr (.inl (by omega)))⟩
      · exact hillegal ⟨by omega, .inr (.inr (.inr (.inl (by omega))))⟩
      · exact hillegal ⟨by omega, .inr (.inr (.inr (.inr (by omega))))⟩
    · rintro hlisted ⟨hrsv, hshape | hshape | hshape | hshape | hshape⟩ <;> omega

/-- Settles O1: a table of closed facts, evaluated by the model's assembler and decoder. -/
theorem specWordsDecodeAsListed : Obligations.SpecWordsDecodeAsListed := by
  unfold Obligations.SpecWordsDecodeAsListed
  and_intros <;> rfl

end Sys2Proof
end

section
/-! PROOFS. The power state of a codec (R133, R142, R147): a step changes it only by a write of ADDR_FMTCTL, so only in
the body of one of the four commands that write that register. -/
namespace Sys2Proof.Machine

variable {i : Instr} {s t : State} {c : CodecId} {a v : Nat} {d : Answer}

/-! ## The power-down bit (R7, R143) -/

theorem and_two_pow_eq_zero_iff (v b : Nat) : v &&& 2 ^ b = 0 ↔ v.testBit b = false := by
  rw [Nat.and_two_pow]
  cases v.testBit b <;> simp

/-- The power-down bit is one bit of a register, and no format bit (R7). -/
theorem configOk_powerBit {cfg : Config} (hok : configOk cfg = true) :
    ∃ b, cfg.pdMask = 2 ^ b ∧ b < cfg.regDataBits ∧ cfg.fmtMask.testBit b = false := by
  obtain ⟨⟨b, hb⟩, hdisjoint, hlt, -⟩ := configOk_power hok
  refine ⟨b, hb, (Nat.pow_lt_pow_iff_right (by decide)).mp (hb ▸ hlt), ?_⟩
  rwa [hb, Nat.and_comm, and_two_pow_eq_zero_iff] at hdisjoint

/-- A read-modify-write of the format bits keeps the power-down bit (R143, R188). -/
theorem rmwValue_fmt_keeps_powerDown {cfg : Config} (hok : configOk cfg = true) {base code : Nat}
    (hbase : base &&& cfg.pdMask ≠ 0) : rmwValue cfg base cfg.fmtMask code &&& cfg.pdMask ≠ 0 := by
  obtain ⟨b, hb, hlt, hfmt⟩ := configOk_powerBit hok
  rw [hb, Ne, and_two_pow_eq_zero_iff, Bool.not_eq_false] at hbase ⊢
  simp [rmwValue_testBit, hlt, hbase, hfmt]

/-- The value POWER_DOWN writes has the power-down bit (R190). -/
theorem or_powerDown_ne_zero {cfg : Config} (hok : configOk cfg = true) (base : Nat) :
    (base ||| cfg.pdMask) &&& cfg.pdMask ≠ 0 := by
  obtain ⟨b, hb, -⟩ := configOk_powerBit hok
  rw [hb, Ne, and_two_pow_eq_zero_iff]
  simp

/-! ## Who writes ADDR_FMTCTL -/

/-- The commands that write the format-control register (R187 to R190). -/
def writesFmtctl (i : Instr) (cs : CodecSet) : Prop :=
  i = .applyStartup cs ∨ i = .setFmtSysclk cs ∨ i = .powerUp cs ∨ i = .powerDown cs

/-- The volume and control registers are not ADDR_FMTCTL (R7). -/
theorem addrFmtctl_ne {cfg : Config} (hok : configOk cfg = true) :
    (∀ ch, addrAttLsb cfg ch ≠ cfg.addrFmtctl) ∧ (∀ ch, addrAttMsb cfg ch ≠ cfg.addrFmtctl) ∧
      ∀ d, (enumDesc cfg d).addr ≠ cfg.addrFmtctl := by
  have hdistinct := configOk_distinct hok
  obtain ⟨-, henum, -⟩ := configOk_addrs hok
  simp only [fixedAddrs, List.nodup_cons, List.mem_cons, not_or] at hdistinct
  refine ⟨fun ch => ?_, fun ch => ?_, fun d heq => (henum d).2 (by simp [heq, fixedAddrs])⟩
  · cases ch
    · exact hdistinct.1.2.2.2.1
    · exact hdistinct.2.2.1.2.1
  · cases ch
    · exact hdistinct.2.1.2.2.1
    · exact hdistinct.2.2.2.1.1

/-- The target of a codec command is its current codec. -/
theorem currentCodec_of_storeTarget {cs : CodecSet} (hi : writesFmtctl i cs)
    (h : storeTarget i s = some (c, a)) : currentCodec cs s = some c := by
  have hcur {b : Nat} (ht : (currentCodec cs s).map (fun c => (c, b)) = some (c, a)) : currentCodec cs s = some c := by
    obtain ⟨c', hc', heq⟩ := Option.map_eq_some_iff.mp ht
    exact hc'.trans (congrArg (some ·.1) heq)
  unfold storeTarget at h
  split at h
  · exact nomatch h
  · exact nomatch h
  · rcases hi with rfl | rfl | rfl | rfl
    · dsimp only at h
      split at h
      · next c' r hc' _ =>
        obtain ⟨e, -, heq⟩ := Option.map_eq_some_iff.mp h
        exact hc'.trans (congrArg (some ·.1) heq)
      · exact nomatch h
    · exact hcur h
    · exact hcur h
    · exact hcur h

/-- A write of ADDR_FMTCTL is made by one of them, to the codec of its current element. -/
theorem WroteRegister.writesFmtctl (hok : configOk s.cfg = true) (h : WroteRegister i s t c s.cfg.addrFmtctl v d) :
    ∃ cs, Machine.writesFmtctl i cs ∧ currentCodec cs s = some c := by
  obtain ⟨hlsb, hmsb, henum⟩ := addrFmtctl_ne hok
  have hfmt {cs : CodecSet} (hi : Machine.writesFmtctl i cs) :
      ∃ cs, Machine.writesFmtctl i cs ∧ currentCodec cs s = some c :=
    ⟨cs, hi, currentCodec_of_storeTarget hi h.target⟩
  cases i with
  | applyStartup cs => exact hfmt (.inl rfl)
  | setFmtSysclk cs => exact hfmt (.inr (.inl rfl))
  | powerUp cs => exact hfmt (.inr (.inr (.inl rfl)))
  | powerDown cs => exact hfmt (.inr (.inr (.inr rfl)))
  | setVolume c' ch =>
    rcases h.value with ⟨ha, -⟩ | ⟨ha, -⟩
    · exact absurd ha.symm (hlsb ch)
    · exact absurd ha.symm (hmsb ch)
  | writeSynced cs q =>
    have htarget := h.target
    rw [storeTarget, h.phase] at htarget
    obtain ⟨_, -, heq⟩ := Option.map_eq_some_iff.mp htarget
    exact absurd (congrArg Prod.snd heq) (henum q)
  | _ => exact h.value.elim

/-! ## What changes the power state (R142) -/

theorem WroteRegister.pd_eq (h : WroteRegister i s t c s.cfg.addrFmtctl v d) :
    (t.codec c).pd = if d.ok then (if v &&& s.cfg.pdMask ≠ 0 then .down else .up) else .unknown := by
  rw [h.codec, if_pos rfl, (afterAnswer_kept _ _ _ _).1, CodecState.afterWrite_pd, if_pos rfl]

/-- The power state of a codec changes only by a write of its ADDR_FMTCTL. -/
theorem exec_pd_changed (h : exec i s = .next t) (hne : (t.codec c).pd ≠ (s.codec c).pd) :
    ∃ v d, WroteRegister i s t c s.cfg.addrFmtctl v d := by
  rcases exec_registers h with ⟨-, -, hkept | ⟨_, c', -, -, -, -, hcleared⟩⟩ | ⟨c', a, v, d, hw⟩
  · exact absurd (by rw [hkept]) hne
  · refine absurd ?_ hne
    rw [hcleared]
    split
    · next hc => rw [hc, CodecState.clearSysclk_pd]
    · rfl
  · by_cases hc : c = c'
    · subst hc
      by_cases ha : a = s.cfg.addrFmtctl
      · exact ⟨v, d, ha ▸ hw⟩
      · refine absurd ?_ hne
        rw [hw.codec, if_pos rfl, (afterAnswer_kept _ _ _ _).1, CodecState.afterWrite_pd, if_neg ha]
    · exact absurd (by rw [hw.codec, if_neg hc]) hne

/-- The current codec is one of those still to come. -/
theorem mem_drop_of_currentCodec {cs : CodecSet} (h : currentCodec cs s = some c) :
    c ∈ (codecList cs).drop s.position.elem :=
  List.mem_of_getElem? (i := 0) (by simpa [currentCodec] using h)

/-- SET_FMT_SYSCLK leaves the power-down bit as it found it, set (R188, R134). -/
theorem Inv.setFmtSysclk_keeps_down {cs : CodecSet} (hinv : Inv s) (hok : configOk s.cfg = true)
    (hruns : s.runs (.setFmtSysclk cs)) (hcur : currentCodec cs s = some c)
    (hw : WroteRegister (.setFmtSysclk cs) s t c s.cfg.addrFmtctl v d) :
    (s.codec c).pd = .down ∧ v &&& s.cfg.pdMask ≠ 0 := by
  obtain ⟨-, -, hdown⟩ := hinv.inBody hruns hw.phase
  have hpd := hdown c (mem_drop_of_currentCodec hcur)
  obtain ⟨base, hbase, rfl⟩ := hw.value
  obtain ⟨base', hbase', hbit⟩ := (hinv.power c).1 hpd
  obtain rfl : base = base' := Option.some.inj (hbase.symm.trans hbase')
  exact ⟨hpd, rmwValue_fmt_keeps_powerDown hok hbit⟩

/-- Settles O39: a codec comes up by a write of ADDR_FMTCTL without the power-down bit; SET_FMT_SYSCLK and POWER_DOWN
write the bit set, POWER_UP has its guards behind it (`bodySound`), and APPLY_STARTUP writes an entry of the batch. -/
theorem codecsComeUpLast : Obligations.CodecsComeUpLast := by
  unfold Obligations.CodecsComeUpLast
  intro i s t c hinv hok hruns h hs ht
  obtain ⟨v, d, hw⟩ := exec_pd_changed h (fun heq => hs (heq.symm.trans ht))
  have hbit : v &&& s.cfg.pdMask = 0 := by
    rw [hw.pd_eq] at ht
    split at ht
    · split at ht
      · exact nomatch ht
      · next hv => exact Decidable.of_not_not hv
    · exact nomatch ht
  obtain ⟨cs, rfl | rfl | rfl | rfl, hcur⟩ := hw.writesFmtctl hok
  · exact .inr ⟨cs, v, rfl, mem_of_currentCodec hcur, hw.value, hbit⟩
  · exact absurd hbit (hinv.setFmtSysclk_keeps_down hok hruns hcur hw).2
  · obtain ⟨hmaster, hclocks, hvalid⟩ := hinv.inBody hruns hw.phase
    exact .inl ⟨cs, rfl, mem_of_currentCodec hcur, hmaster,
      fun k hk => hclocks k ((mem_groupBoth s.cfg k).mpr hk), hvalid c (mem_drop_of_currentCodec hcur)⟩
  · obtain rfl : v = s.powerDownBase c ||| s.cfg.pdMask := hw.value
    exact absurd hbit (or_powerDown_ne_zero hok _)

/-- Settles O40: the invariant gives the first part (R32). A codec leaves `Unknown` by an `ok` write of ADDR_FMTCTL;
SET_FMT_SYSCLK asks for a codec that is Down, and POWER_UP for one with a sysclk, whose power state is known. -/
theorem unknownPowerStateDropsTheSysclk : Obligations.UnknownPowerStateDropsTheSysclk := by
  unfold Obligations.UnknownPowerStateDropsTheSysclk
  intro i s t c hinv hok hruns h
  refine ⟨fun hunknown => ?_, fun hunknown hknown => ?_⟩
  · obtain ⟨hvalid, hzero⟩ := (exec_inv hinv hok hruns h).sysclk c
    have hinvalid : (t.codec c).sysclkValid = false := by
      rw [← Bool.not_eq_true]
      intro hv
      obtain ⟨hpd | hpd, -⟩ := hvalid hv
      · exact nomatch hunknown.symm.trans hpd
      · exact nomatch hunknown.symm.trans hpd
    exact ⟨hinvalid, hzero hinvalid⟩
  · obtain ⟨v, d, hw⟩ := exec_pd_changed h (fun heq => hknown (heq.trans hunknown))
    have hdok : d.ok = true := by
      rw [hw.pd_eq] at hknown
      split at hknown
      · assumption
      · exact absurd rfl hknown
    have hrec : recorded s t [.memWrite c s.cfg.addrFmtctl v true] := hdok ▸ hw.history
    obtain ⟨cs, rfl | rfl | rfl | rfl, hcur⟩ := hw.writesFmtctl hok
    · exact ⟨⟨cs, .inl rfl, mem_of_currentCodec hcur⟩, v, hrec⟩
    · have hdown := (hinv.setFmtSysclk_keeps_down hok hruns hcur hw).1
      exact nomatch hunknown.symm.trans hdown
    · obtain ⟨-, -, hvalid⟩ := hinv.inBody hruns hw.phase
      obtain ⟨hpd | hpd, -⟩ := (hinv.sysclk c).1 (hvalid c (mem_drop_of_currentCodec hcur))
      · exact nomatch hunknown.symm.trans hpd
      · exact nomatch hunknown.symm.trans hpd
    · exact ⟨⟨cs, .inr rfl, mem_of_currentCodec hcur⟩, v, hrec⟩

end Sys2Proof.Machine
end

section
/-! PROOFS. The engine and the host around it (R38, R121, R122, R123): a step of a busy block is a step of its command,
a host write of an idle block takes effect at once and of a busy one is held, and a command never looks at the live ARG
registers. -/
namespace Sys2Proof.Machine

variable {i : Instr} {s t : State} {x y : Word}

/-! ## The engine's turn (R123, R124) -/

theorem engineStep_of_runs (h : s.runs i) : engineStep s = exec i s := by
  rw [engineStep, h.2]

/-- A busy block whose engine has the turn runs its command. -/
theorem step_of_engineTurn (hatt : s.attached = true) (hok : configOk s.cfg = true) (hruns : s.runs i)
    (hturn : s.pickTurn.1 = false) : step s = exec i s.pickTurn.2 := by
  obtain ⟨e, he⟩ := s.pickTurn_snd
  have hruns' : s.pickTurn.2.runs i := by rw [he]; exact hruns
  rw [← engineStep_of_runs hruns']
  simp [step, hatt, hok, hruns.1, hturn]

/-- The turn given to the engine is used up by taking it. -/
theorem step_giveTurnToEngine (hatt : s.attached = true) (hok : configOk s.cfg = true) (hruns : s.runs i) :
    step s.giveTurnToEngine = exec i s :=
  step_of_engineTurn (s := s.giveTurnToEngine) hatt hok hruns rfl

/-- Settles O4: the engine's turn is `step_of_engineTurn`, and a placed word has the turn. -/
theorem stepRunsTheDecodedCommand : Obligations.StepRunsTheDecodedCommand := by
  unfold Obligations.StepRunsTheDecodedCommand
  refine ⟨fun s i hatt hok hruns => ?_, fun s i nbits w hok hdecode => ?_⟩
  · exact ⟨step_giveTurnToEngine hatt hok hruns, fun hturn =>
      ⟨s.pickTurn_snd, step_of_engineTurn hatt hok hruns hturn⟩⟩
  · exact step_giveTurnToEngine (s := State.issue { s with attached := true } (tableWord nbits w)) rfl hok
      ⟨rfl, hdecode⟩

/-! ## Host writes (R121, R122) -/

/-- A host write of an idle block takes effect at once. -/
theorem State.hostWrite_of_idle (hidle : s.eng.busy = false) (r : WindowReg) (v : Word) :
    s.hostWrite r v = s.writeWindow r v := by
  simp [State.hostWrite, hidle]

/-- A write of one of the four registers that hold writes is held by a busy block (R122). -/
theorem State.hostWrite_of_busy (hbusy : s.eng.busy = true) {r : WindowReg} (hr : r.holds = true) (v : Word) :
    s.hostWrite r v = { s with held := some { reg := r, value := v } } := by
  simp [State.hostWrite, hbusy, hr]

/-- The offsets of CMD, ARG0, ARG1 and FLAGS (R36), the registers that hold writes (R122). -/
theorem windowReg_of_holding {off : Nat} {r : WindowReg}
    (h : (off, r) ∈ [(0x00, WindowReg.cmd), (0x04, .arg0), (0x08, .arg1), (0x24, .flags)]) :
    windowReg off = some r ∧ r.holds = true := by
  simp only [List.mem_cons, Prod.mk.injEq, List.not_mem_nil, or_false] at h
  obtain ⟨rfl, rfl⟩ | ⟨rfl, rfl⟩ | ⟨rfl, rfl⟩ | ⟨rfl, rfl⟩ := h <;> exact ⟨rfl, rfl⟩

/-- The host's write of an idle block, whole: the action is taken and the write takes effect. -/
theorem State.hostStep_write_of_idle {off : Nat} {v : Word} {rest : List HostAction} {r : WindowReg}
    (hatt : s.attached = true) (hidle : s.eng.busy = false) (hheld : s.held = none)
    (hact : s.host.actions = .write (s.cfg.windowBase + off) 32 v :: rest) (hr : windowReg off = some r) :
    s.hostStep = .next ((s.hostDone rest).writeWindow r v) := by
  rw [State.hostStep_write hatt hheld hact hr, State.hostWrite_of_idle (s := s.hostDone rest) hidle]

/-- Settles O6: a busy block holds the write (`hostWrite_of_busy`); a held write and the same write made once the block
is idle are the same `writeWindow`; a read is an access like any other. -/
theorem busyWritesHoldUntilIdle : Obligations.BusyWritesHoldUntilIdle := by
  unfold Obligations.BusyWritesHoldUntilIdle
  refine ⟨fun s off r v rest hmem hatt hbusy hheld hact => ?_, fun s w hheld hbusy => ?_,
    fun s w off hmem hatt hheld hidle => ?_, fun s off r rest hr hatt hheld hact => ?_⟩
  · obtain ⟨hr, hholds⟩ := windowReg_of_holding hmem
    rw [State.hostStep_write hatt hheld hact hr, State.hostWrite_of_busy (s := s.hostDone rest) hbusy hholds]
    rfl
  · simp [State.hostStep, hheld, hbusy]
  · obtain ⟨hr, -⟩ := windowReg_of_holding hmem
    have hlater := State.hostStep_write_of_idle (v := w.value)
      (s := { s with
        held := none
        host := { s.host with
          actions := .write (s.cfg.windowBase + off) 32 w.value :: s.host.actions } }) hatt hidle rfl rfl hr
    rw [hlater]
    simp only [State.hostStep, hheld, hidle]
    rfl
  · have hreg : hostReg s.cfg (s.cfg.windowBase + off) 32 = some r := hostReg_eq_some.mpr ⟨rfl, off, rfl, hr⟩
    rw [State.hostStep_of_action hheld hact, State.hostAct, State.access, if_pos hatt, hreg]
    rfl

/-! ## The live ARG registers (R38, R121) -/

/-- The state with x and y in the live ARG registers. -/
def State.withArgs (s : State) (x y : Word) : State := { s with win := { s.win with arg0 := x, arg1 := y } }

section WithArgs

@[simp] theorem State.withArgs_position (s : State) : (s.withArgs x y).position = s.position := rfl

@[simp] theorem State.withArgs_cfg (s : State) : (s.withArgs x y).cfg = s.cfg := rfl

@[simp] theorem State.withArgs_eng (s : State) : (s.withArgs x y).eng = s.eng := rfl

@[simp] theorem State.withArgs_codec (s : State) (c : CodecId) : (s.withArgs x y).codec c = s.codec c := by
  cases c <;> rfl

@[simp] theorem State.withArgs_shadow (s : State) (c : CodecId) (a : Nat) :
    (s.withArgs x y).shadow c a = s.shadow c a := by
  cases c <;> rfl

@[simp] theorem State.withArgs_anyUp (s : State) : (s.withArgs x y).anyUp = s.anyUp := by
  simp [State.anyUp]

theorem State.goTo_withArgs (s : State) (f : Position → Position) :
    (s.withArgs x y).goTo f = (s.goTo f).withArgs x y := rfl

theorem State.onClk_withArgs (s : State) (f : ClockState → ClockState) :
    (s.withArgs x y).onClk f = (s.onClk f).withArgs x y := rfl

theorem State.onCodec_withArgs (s : State) (c : CodecId) (f : CodecState → CodecState) :
    (s.withArgs x y).onCodec c f = (s.onCodec c f).withArgs x y := rfl

theorem guardsOf_withArgs (s : State) (i : Instr) : guardsOf (s.withArgs x y) i = guardsOf s i :=
  guardsOf_congr ⟨rfl, rfl, fun c => s.withArgs_codec c, rfl⟩ i

variable {f f' : State → State} {n : Nat}

theorem withArgs_ite {p : Prop} [Decidable p] {u u' v v' : State} (hu : u' = u.withArgs x y)
    (hv : v' = v.withArgs x y) : (if p then u' else v') = (if p then u else v).withArgs x y := by
  rw [hu, hv, apply_ite (State.withArgs · x y)]

theorem enterBody_withArgs (s : State) : (s.withArgs x y).enterBody n = (s.enterBody n).withArgs x y :=
  withArgs_ite rfl rfl

theorem nextElem_withArgs (s : State) (hlast : f' (s.withArgs x y) = (f s).withArgs x y) :
    (s.withArgs x y).nextElem n f' = (s.nextElem n f).withArgs x y :=
  withArgs_ite rfl hlast

theorem nextElem_finish_withArgs (s : State) :
    (s.withArgs x y).nextElem n State.finish = (s.nextElem n State.finish).withArgs x y :=
  nextElem_withArgs s rfl

theorem atElem_withArgs {α : Type} {l : List α} {k k' : α → State} (h : ∀ a, k' a = (k a).withArgs x y) :
    (s.withArgs x y).atElem l k' = (s.atElem l k).withArgs x y := by
  unfold State.atElem
  rw [State.withArgs_position]
  cases l[s.position.elem]? with
  | some a => exact h a
  | none => rfl

theorem enterGuards_withArgs (s : State) (gs : List GuardCheck) :
    (s.withArgs x y).enterGuards gs n = (s.enterGuards gs n).withArgs x y :=
  withArgs_ite (enterBody_withArgs s) rfl

theorem guardStep_withArgs (s : State) (gs : List GuardCheck) :
    (s.withArgs x y).guardStep gs n = (s.guardStep gs n).withArgs x y :=
  atElem_withArgs fun _ => withArgs_ite rfl (nextElem_withArgs s (enterBody_withArgs s))

theorem awaitAnswer_withArgs {k k' : Answer → State → State}
    (h : ∀ d u, k' d (u.withArgs x y) = (k d u).withArgs x y) :
    (s.withArgs x y).awaitAnswer k' = (s.awaitAnswer k).withArgs x y := by
  have htake : (s.withArgs x y).takeAnswer = (s.takeAnswer.1, s.takeAnswer.2.withArgs x y) := by
    unfold State.takeAnswer
    rw [show (s.withArgs x y).env = s.env from rfl]
    cases s.env.answers <;> rfl
  unfold State.awaitAnswer
  rw [htake]
  obtain ⟨a, u⟩ := s.takeAnswer
  cases a with
  | none => rfl
  | some d => exact h d u

theorem clkReq_withArgs {op : ClkOp} {k : Clock} {g g' : Bool → State → State}
    (h : ∀ ok u, g' ok (u.withArgs x y) = (g ok u).withArgs x y) :
    (s.withArgs x y).clkReq op k g' = (s.clkReq op k g).withArgs x y :=
  awaitAnswer_withArgs fun d u => h d.ok (u.record (.clkReq op k d.ok))

theorem startReq_withArgs {op : ClkOp} {k : Clock} {code : Code}
    (h : ∀ u, f' (u.withArgs x y) = (f u).withArgs x y) :
    (s.withArgs x y).startReq op k code f' = (s.startReq op k code f).withArgs x y :=
  clkReq_withArgs fun _ u => withArgs_ite (h u) rfl

theorem teardownReq_withArgs {op : ClkOp} {k : Clock} (h : ∀ u, f' (u.withArgs x y) = (f u).withArgs x y) :
    (s.withArgs x y).teardownReq op k f' = (s.teardownReq op k f).withArgs x y :=
  clkReq_withArgs fun ok u => by
    cases ok
    · exact h u.flagTeardown
    · exact h u

theorem writeReg_withArgs {c : CodecId} {a v : Nat} {g g' : Bool → State → State}
    (h : ∀ ok u, g' ok (u.withArgs x y) = (g ok u).withArgs x y) :
    (s.withArgs x y).writeReg c a v g' = (s.writeReg c a v g).withArgs x y :=
  awaitAnswer_withArgs fun d u => h d.ok (u.afterWriteReg c a v d)

theorem rmw_withArgs {c : CodecId} {a clear set : Nat} {g g' : Bool → State → State}
    (h : ∀ ok u, g' ok (u.withArgs x y) = (g ok u).withArgs x y) :
    (s.withArgs x y).rmw c a clear set g' = (s.rmw c a clear set g).withArgs x y := by
  unfold State.rmw
  rw [State.withArgs_shadow]
  cases s.shadow c a with
  | none => rfl
  | some base => exact writeReg_withArgs h

theorem readReg_withArgs {c : CodecId} {a : Nat} {g g' : Nat → State → State}
    (h : ∀ v u, g' v (u.withArgs x y) = (g v u).withArgs x y) :
    (s.withArgs x y).readReg c a g' = (s.readReg c a g).withArgs x y :=
  awaitAnswer_withArgs fun _ u => withArgs_ite (h _ (u.record _)) rfl

theorem endPowerDown_withArgs (s : State) : (s.withArgs x y).endPowerDown = s.endPowerDown.withArgs x y := by
  unfold State.endPowerDown
  rw [State.withArgs_position]
  cases s.position.first <;> rfl

theorem compareSynced_withArgs (s : State) (l : List CodecId) (a : Nat) :
    (s.withArgs x y).compareSynced l a = (s.compareSynced l a).withArgs x y := by
  unfold State.compareSynced
  rw [State.withArgs_position]
  split
  · rfl
  · exact withArgs_ite rfl (nextElem_withArgs s rfl)

theorem byPhase_withArgs {g g' : State → State} (h : s.byPhase f g = .next t)
    (hf : f' (s.withArgs x y) = (f s).withArgs x y) (hg : g' (s.withArgs x y) = (g s).withArgs x y) :
    (s.withArgs x y).byPhase f' g' = .next (t.withArgs x y) := by
  rw [State.byPhase_eq] at h ⊢
  cases h
  rw [State.withArgs_position]
  split
  · rw [hf]
  · rfl
  · rw [hg]

theorem byGuards_withArgs {first first' : Option State} (h : s.byGuards first (guardsOf s i) n f = .next t)
    (hfirst : first' = first.map (·.withArgs x y)) (hf : f' (s.withArgs x y) = (f s).withArgs x y) :
    (s.withArgs x y).byGuards first' (guardsOf (s.withArgs x y) i) n f' = .next (t.withArgs x y) := by
  rw [State.byGuards_eq] at h ⊢
  cases h
  rw [State.withArgs_position, guardsOf_withArgs, hfirst]
  split
  · cases first with
    | none => exact congrArg _ (enterGuards_withArgs s _)
    | some u => rfl
  · rw [guardStep_withArgs]
  · rw [hf]

end WithArgs

/-- A command does the same whatever the live ARG registers hold, and leaves them alone. -/
theorem exec_withArgs (h : exec i s = .next t) (x y : Word) :
    exec i (s.withArgs x y) = .next (t.withArgs x y) := by
  cases i with
  | prepareAll g =>
    simp only [exec, execPrepareAll] at h ⊢
    exact byPhase_withArgs h (enterBody_withArgs s) (atElem_withArgs fun k => withArgs_ite (nextElem_finish_withArgs s)
      (startReq_withArgs fun u => nextElem_finish_withArgs (u.onClk (·.setPrepared k true))))
  | enableAll g =>
    simp only [exec, execEnableAll] at h ⊢
    exact byGuards_withArgs (i := .enableAll g) h rfl (atElem_withArgs fun k => withArgs_ite
      (nextElem_finish_withArgs s)
      (startReq_withArgs fun u => nextElem_finish_withArgs (u.onClk (·.setEnabled k true))))
  | disableAll g =>
    simp only [exec, execDisableAll] at h ⊢
    refine byPhase_withArgs h ?_ (atElem_withArgs fun k => withArgs_ite (teardownReq_withArgs fun u => ?_)
      (nextElem_finish_withArgs s))
    · rw [State.withArgs_anyUp, State.goTo_withArgs]
      exact enterBody_withArgs _
    · rw [← nextElem_finish_withArgs, State.withArgs_position]
      split <;> rfl
  | unprepareAll g =>
    simp only [exec, execUnprepareAll] at h ⊢
    exact byGuards_withArgs (i := .unprepareAll g) h rfl (atElem_withArgs fun k => withArgs_ite
      (teardownReq_withArgs fun u => nextElem_finish_withArgs (u.onClk (·.setPrepared k false)))
      (nextElem_finish_withArgs s))
  | selectMaster =>
    simp only [exec, execSelectMaster] at h ⊢
    refine byPhase_withArgs h ?_ ?_
    · rw [State.withArgs_eng]
      cases masterSource s.eng.cur.arg0 with
      | none => rfl
      | some src => exact withArgs_ite rfl (enterBody_withArgs s)
    · rw [State.withArgs_eng, State.withArgs_position]
      split
      · rfl
      · exact clkReq_withArgs fun _ u => withArgs_ite rfl rfl
      · exact startReq_withArgs fun u => rfl
      · exact startReq_withArgs fun u => rfl
      · exact awaitAnswer_withArgs fun d u => rfl
  | releaseMaster =>
    simp only [exec, execReleaseMaster] at h ⊢
    refine byPhase_withArgs h ?_ ?_
    · rw [State.withArgs_anyUp, State.goTo_withArgs, State.onClk_withArgs]
      exact enterBody_withArgs _
    · rw [State.withArgs_position]
      split
      · refine withArgs_ite (teardownReq_withArgs fun u => ?_) rfl
        rw [State.withArgs_position]
        split <;> rfl
      · exact withArgs_ite (teardownReq_withArgs fun u => rfl) rfl
  | applyStartup cs =>
    simp only [exec, execApplyStartup] at h ⊢
    refine byGuards_withArgs (i := .applyStartup cs) h rfl (atElem_withArgs fun c => ?_)
    rw [State.withArgs_position, State.withArgs_cfg]
    split
    · rfl
    · split
      · exact nextElem_finish_withArgs s
      · exact writeReg_withArgs fun _ u => withArgs_ite (withArgs_ite rfl (nextElem_finish_withArgs u)) rfl
  | setFmtSysclk cs =>
    simp only [exec, execSetFmtSysclk] at h ⊢
    refine byGuards_withArgs (i := .setFmtSysclk cs) h ?_ (atElem_withArgs fun c => rmw_withArgs fun _ u =>
      withArgs_ite (nextElem_finish_withArgs (u.onCodec c (·.setSysclk u.eng.cur.arg0))) rfl)
    rw [State.withArgs_eng, State.withArgs_cfg]
    split
    · rfl
    · split <;> rfl
  | powerUp cs =>
    simp only [exec, execPowerUp] at h ⊢
    refine byGuards_withArgs (i := .powerUp cs) h ?_ (atElem_withArgs fun c => rmw_withArgs fun _ u =>
      withArgs_ite (nextElem_finish_withArgs u) rfl)
    rw [show (s.withArgs x y).masterReady = s.masterReady from rfl]
    split <;> rfl
  | powerDown cs =>
    simp only [exec, execPowerDown] at h ⊢
    refine byPhase_withArgs h (enterBody_withArgs s) (atElem_withArgs fun c => ?_)
    rw [show (s.withArgs x y).powerDownBase c = s.powerDownBase c by simp [State.powerDownBase]]
    refine writeReg_withArgs fun ok u => ?_
    rw [State.goTo_withArgs, ← apply_ite (State.withArgs · x y), State.onCodec_withArgs]
    exact nextElem_withArgs _ (endPowerDown_withArgs _)
  | setVolume c ch =>
    simp only [exec, execSetVolume] at h ⊢
    refine byPhase_withArgs h (withArgs_ite rfl (withArgs_ite rfl (enterBody_withArgs s))) ?_
    rw [State.withArgs_position]
    split
    · exact writeReg_withArgs fun _ u => withArgs_ite rfl rfl
    · exact writeReg_withArgs fun _ u => withArgs_ite rfl rfl
  | getVolume c ch =>
    simp only [exec, execGetVolume] at h ⊢
    refine byPhase_withArgs h (withArgs_ite rfl (enterBody_withArgs s)) ?_
    rw [State.withArgs_position]
    split
    · exact readReg_withArgs fun _ u => rfl
    · exact readReg_withArgs fun _ u => rfl
  | readSynced cs d =>
    simp only [exec, execReadSynced] at h ⊢
    refine byPhase_withArgs h (enterBody_withArgs s) ?_
    rw [State.withArgs_position]
    split
    · exact readReg_withArgs fun v u => nextElem_withArgs
        (u.goTo fun p => { p with vals := p.vals ++ [enumField u.cfg d v] }) rfl
    · exact compareSynced_withArgs s (codecList cs) _
  | writeSynced cs d =>
    simp only [exec, execWriteSynced] at h ⊢
    exact byPhase_withArgs h (withArgs_ite rfl (enterBody_withArgs s)) (atElem_withArgs fun c => rmw_withArgs
      fun _ u => withArgs_ite (nextElem_finish_withArgs u) rfl)

/-- Settles O5: an idle block's write of CMD is `issue`, one of ARG0 or ARG1 stores its value; what a command does with
other live ARG registers is `exec_withArgs`. -/
theorem idleCmdWriteIssues : Obligations.IdleCmdWriteIssues := by
  unfold Obligations.IdleCmdWriteIssues
  have hwrite {s : State} {off : Nat} {r : WindowReg} {v : Word} {rest : List HostAction} (hatt : s.attached = true)
      (hok : configOk s.cfg = true) (hidle : s.eng.busy = false) (hheld : s.held = none)
      (hact : s.host.actions = .write (s.cfg.windowBase + off) 32 v :: rest) (hr : windowReg off = some r) :
      step s = .next ((s.hostDone rest).writeWindow r v) :=
    (step_of_idle hatt hok hidle).trans (State.hostStep_write_of_idle hatt hidle hheld hact hr)
  exact ⟨fun s w rest hatt hok hidle hheld hact => hwrite (off := 0) hatt hok hidle hheld hact rfl,
    fun i s t x y h => exec_withArgs h x y,
    fun s v rest hatt hok hidle hheld => ⟨fun hact => hwrite hatt hok hidle hheld hact rfl,
      fun hact => hwrite hatt hok hidle hheld hact rfl, rfl, rfl⟩⟩

end Sys2Proof.Machine
end

section
/-! PROOFS. The hold (R123, R148): at a request that is not answered a command changes nothing but the used-up answer, and
at every other position it takes no answer and makes no request. -/
namespace Sys2Proof.Machine

variable {i : Instr} {s t u : State} {rest : List (Option Answer)} {req req' : Prop}

/-- The state with the answers used up to `rest`. -/
def State.unanswered (s : State) (rest : List (Option Answer)) : State :=
  { s with env := { s.env with answers := rest } }

/-- From s to u no answer was taken and no request made. -/
def askedNothing (s u : State) : Prop := u.env = s.env ∧ recorded s u []

/-- From s to u the engine held if it was at a request, and else went on without asking for an answer. -/
def Waits (rest : List (Option Answer)) (req : Prop) (s u : State) : Prop :=
  (req → u = s.unanswered rest) ∧ (¬ req → askedNothing s u)

theorem askedNothing_of_kept (henv : u.env = s.env) (hhistory : u.history = s.history) : askedNothing s u :=
  ⟨henv, by rw [recorded, hhistory, List.append_nil]⟩

theorem onlyStatusChanged.askedNothing (h : onlyStatusChanged s u) : askedNothing s u := by
  obtain ⟨-, -, -, -, -, hhistory, -, henv, -⟩ := h.kept
  exact askedNothing_of_kept henv hhistory

namespace Waits

theorem ask (h : u = s.unanswered rest) (hreq : req) : Waits rest req s u := ⟨fun _ => h, fun hn => absurd hreq hn⟩

theorem go (h : askedNothing s u) (hreq : ¬ req) : Waits rest req s u := ⟨fun hr => absurd hr hreq, fun _ => h⟩

theorem finish (hreq : ¬ req) : Waits rest req s s.finish :=
  go (State.raise_onlyStatusChanged s _ _ _).askedNothing hreq

theorem congr (h : Waits rest req s u) (hiff : req' ↔ req) : Waits rest req' s u := by
  rwa [Waits, hiff]

/-! ## The shared operations -/

/-- Going on to the next element asks for nothing, whatever ends the command. -/
theorem nextElem {n : Nat} {last : State → State} (hlast : askedNothing s (last s)) (hreq : ¬ req) :
    Waits rest req s (s.nextElem n last) :=
  State.nextElem_elim (P := Waits rest req s) (fun _ => go (askedNothing_of_kept rfl rfl) hreq)
    fun _ => go hlast hreq

theorem nextElem_finish {n : Nat} (hreq : ¬ req) : Waits rest req s (s.nextElem n State.finish) :=
  nextElem (askedNothing_of_kept rfl rfl) hreq

theorem atElem {α : Type} {l : List α} {f : α → State} {r : α → Prop} (h : ∀ a, Waits rest (r a) s (f a)) :
    Waits rest (∃ a, l[s.position.elem]? = some a ∧ r a) s (s.atElem l f) :=
  State.atElem_elim (P := Waits rest _ s) (fun a ha => (h a).congr (by simp [ha])) fun hnone => finish (by simp [hnone])

/-- A command without guard loops. -/
theorem byPhase {checks body : State → State} (h : s.byPhase checks body = .next t)
    (hchecks : askedNothing s (checks s)) (hbody : Waits rest req s (body s)) :
    Waits rest (s.position.phase = .body ∧ req) s t :=
  State.byPhase_elim (P := Waits rest _ s) h (fun hp => go hchecks (by simp [hp]))
    (fun hp => hbody.congr (by simp [hp])) fun hp => finish (by simp [hp])

/-- A command with guard loops. -/
theorem byGuards {first : Option State} {gs : List GuardCheck} {n : Nat} {body : State → State}
    (h : s.byGuards first gs n body = .next t) (hfirst : ∀ x, first = some x → askedNothing s x)
    (hbody : Waits rest req s (body s)) : Waits rest (s.position.phase = .body ∧ req) s t :=
  State.byGuards_elim (P := Waits rest _ s) h (fun x hp hx => go (hfirst x hx) (by simp [hp]))
    (fun hp _ => go (State.enterGuards_onlyStatusChanged s gs n).askedNothing (by simp [hp]))
    (fun hp => go (State.guardStep_onlyStatusChanged s gs n).askedNothing (by simp [hp]))
    fun hp => hbody.congr (by simp [hp])

section Requests

variable (hwait : s.env.answers = none :: rest)
include hwait

/-- Every request of the block is `awaitAnswer`, which holds. -/
theorem awaitAnswer {k : Answer → State → State} (hreq : req) : Waits rest req s (s.awaitAnswer k) :=
  ask (State.awaitAnswer_none hwait) hreq

theorem startReq {op : ClkOp} {k : Clock} {code : Code} {onOk : State → State} (hreq : req) :
    Waits rest req s (s.startReq op k code onOk) := awaitAnswer hwait hreq

theorem teardownReq {op : ClkOp} {k : Clock} {done : State → State} (hreq : req) :
    Waits rest req s (s.teardownReq op k done) := awaitAnswer hwait hreq

theorem writeReg {c : CodecId} {a v : Nat} {cont : Bool → State → State} (hreq : req) :
    Waits rest req s (s.writeReg c a v cont) := awaitAnswer hwait hreq

/-- A read-modify-write of an unknown register ends the command without a request (R143). -/
theorem rmw {c : CodecId} {a clear set : Nat} {cont : Bool → State → State} :
    Waits rest (s.shadow c a ≠ none) s (s.rmw c a clear set cont) := by
  cases hbase : s.shadow c a with
  | none => rw [State.rmw_unknown hbase]; exact go (askedNothing_of_kept rfl rfl) (by simp)
  | some base => rw [State.rmw, hbase]; exact writeReg hwait (by simp)

end Requests

end Waits

/-! ## The commands -/

section Commands

variable (hwait : s.env.answers = none :: rest)
include hwait

theorem execPrepareAll_waits {g : Group} (h : exec (.prepareAll g) s = .next t) :
    Waits rest (s.position.phase = .body ∧
      ∃ k, (groupList s.cfg g)[s.position.elem]? = some k ∧ s.clk.prepared k = false) s t := by
  simp only [exec, execPrepareAll] at h
  refine .byPhase h (State.enterBody_onlyStatusChanged s _).askedNothing (.atElem fun k => ?_)
  split
  · next hk => exact .nextElem_finish (by simp [hk])
  · next hk => exact .startReq hwait (by simpa using hk)

theorem execEnableAll_waits {g : Group} (h : exec (.enableAll g) s = .next t) :
    Waits rest (s.position.phase = .body ∧
      ∃ k, (groupList s.cfg g)[s.position.elem]? = some k ∧ s.clk.enabled k = false) s t := by
  simp only [exec, execEnableAll] at h
  refine .byGuards h (fun _ hx => nomatch hx) (.atElem fun k => ?_)
  split
  · next hk => exact .nextElem_finish (by simp [hk])
  · next hk => exact .startReq hwait (by simpa using hk)

theorem execDisableAll_waits {g : Group} (h : exec (.disableAll g) s = .next t) :
    Waits rest (s.position.phase = .body ∧
      ∃ k, (groupList s.cfg g).reverse[s.position.elem]? = some k ∧ s.clk.enabled k = true) s t := by
  simp only [exec, execDisableAll] at h
  refine .byPhase h (State.enterBody_onlyStatusChanged (s.goTo _) _).askedNothing (.atElem fun k => ?_)
  split
  · next hk => exact .teardownReq hwait hk
  · next hk => exact .nextElem_finish hk

theorem execUnprepareAll_waits {g : Group} (h : exec (.unprepareAll g) s = .next t) :
    Waits rest (s.position.phase = .body ∧
      ∃ k, (groupList s.cfg g).reverse[s.position.elem]? = some k ∧ s.clk.prepared k = true) s t := by
  simp only [exec, execUnprepareAll] at h
  refine .byGuards h (fun _ hx => nomatch hx) (.atElem fun k => ?_)
  split
  · next hk => exact .teardownReq hwait hk
  · next hk => exact .nextElem_finish hk

theorem execSelectMaster_waits (h : exec .selectMaster s = .next t) :
    Waits rest (s.position.phase = .body ∧ isMasterRate s.eng.cur.arg0 = true) s t := by
  simp only [exec, execSelectMaster] at h
  refine .byPhase h ?_ ?_
  · split
    · exact askedNothing_of_kept rfl rfl
    · split
      · exact askedNothing_of_kept rfl rfl
      · exact (State.enterBody_onlyStatusChanged s _).askedNothing
  · split
    · next hnone => exact .go (askedNothing_of_kept rfl rfl) (by simp [isMasterRate, hnone])
    · next hsrc _ => exact .awaitAnswer hwait (by simp [isMasterRate, hsrc])
    · next hsrc _ => exact .awaitAnswer hwait (by simp [isMasterRate, hsrc])
    · next hsrc _ => exact .awaitAnswer hwait (by simp [isMasterRate, hsrc])
    · next hsrc _ => exact .awaitAnswer hwait (by simp [isMasterRate, hsrc])

theorem execReleaseMaster_waits (h : exec .releaseMaster s = .next t) :
    Waits rest (s.position.phase = .body ∧ ((s.position.req = 0 ∧ s.clk.gateEnabled = true) ∨
      (1 ≤ s.position.req ∧ s.clk.gatePrepared = true))) s t := by
  simp only [exec, execReleaseMaster] at h
  refine .byPhase h ?_ ?_
  · exact (State.enterBody_onlyStatusChanged ((s.goTo _).onClk _) _).askedNothing
  · split
    · next hreq =>
      split
      · next hgate => exact .teardownReq hwait (.inl ⟨hreq, hgate⟩)
      · next hgate => exact .go (askedNothing_of_kept rfl rfl) (by simp [hreq, hgate])
    · next r hreq =>
      split
      · next hgate => exact .teardownReq hwait (.inr ⟨by omega, hgate⟩)
      · next hgate => exact .finish (by simp [hreq, hgate])

theorem execApplyStartup_waits {cs : CodecSet} (h : exec (.applyStartup cs) s = .next t) :
    Waits rest (s.position.phase = .body ∧ ∃ c, currentCodec cs s = some c ∧
      ∃ r, s.position.req = r + 1 ∧ r < s.cfg.startupBatch.length) s t := by
  simp only [exec, execApplyStartup] at h
  refine .byGuards h (fun _ hx => nomatch hx) (.atElem fun c => ?_)
  split
  · next hreq => exact .go (askedNothing_of_kept rfl rfl) (by simp [hreq])
  · next r hreq =>
    split
    · next hnone => exact .nextElem_finish (by simpa [hreq] using hnone)
    · next e hentry =>
      exact .writeReg hwait ⟨r, hreq, (List.getElem?_eq_some_iff.mp hentry).1⟩

theorem execSetFmtSysclk_waits {cs : CodecSet} (h : exec (.setFmtSysclk cs) s = .next t) :
    Waits rest (s.position.phase = .body ∧
      ∃ c, currentCodec cs s = some c ∧ s.shadow c s.cfg.addrFmtctl ≠ none) s t := by
  simp only [exec, execSetFmtSysclk] at h
  refine .byGuards h (fun x hx => ?_) (.atElem fun c => .rmw hwait)
  split at hx
  · exact Option.some.inj hx ▸ askedNothing_of_kept rfl rfl
  · split at hx
    · exact Option.some.inj hx ▸ askedNothing_of_kept rfl rfl
    · exact nomatch hx

theorem execPowerUp_waits {cs : CodecSet} (h : exec (.powerUp cs) s = .next t) :
    Waits rest (s.position.phase = .body ∧
      ∃ c, currentCodec cs s = some c ∧ s.shadow c s.cfg.addrFmtctl ≠ none) s t := by
  simp only [exec, execPowerUp] at h
  refine .byGuards h (fun x hx => ?_) (.atElem fun c => .rmw hwait)
  split at hx
  · exact Option.some.inj hx ▸ askedNothing_of_kept rfl rfl
  · exact nomatch hx

theorem execWriteSynced_waits {cs : CodecSet} {d : Control} (h : exec (.writeSynced cs d) s = .next t) :
    Waits rest (s.position.phase = .body ∧
      ∃ c, currentCodec cs s = some c ∧ s.shadow c (enumDesc s.cfg d).addr ≠ none) s t := by
  simp only [exec, execWriteSynced] at h
  refine .byPhase h ?_ (.atElem fun c => .rmw hwait)
  split
  · exact askedNothing_of_kept rfl rfl
  · exact (State.enterBody_onlyStatusChanged s _).askedNothing

theorem execPowerDown_waits {cs : CodecSet} (h : exec (.powerDown cs) s = .next t) :
    Waits rest (s.position.phase = .body ∧ ∃ c, currentCodec cs s = some c ∧ True) s t := by
  simp only [exec, execPowerDown] at h
  exact .byPhase h (State.enterBody_onlyStatusChanged s _).askedNothing (.atElem fun c => .writeReg hwait trivial)

theorem execSetVolume_waits {c : CodecId} {ch : Channel} (h : exec (.setVolume c ch) s = .next t) :
    Waits rest (s.position.phase = .body ∧ True) s t := by
  simp only [exec, execSetVolume] at h
  refine .byPhase h ?_ ?_
  · split
    · exact askedNothing_of_kept rfl rfl
    · split
      · exact askedNothing_of_kept rfl rfl
      · exact (State.enterBody_onlyStatusChanged s _).askedNothing
  · split
    · exact .writeReg hwait trivial
    · exact .writeReg hwait trivial

theorem execGetVolume_waits {c : CodecId} {ch : Channel} (h : exec (.getVolume c ch) s = .next t) :
    Waits rest (s.position.phase = .body ∧ True) s t := by
  simp only [exec, execGetVolume] at h
  refine .byPhase h ?_ ?_
  · split
    · exact askedNothing_of_kept rfl rfl
    · exact (State.enterBody_onlyStatusChanged s _).askedNothing
  · split
    · exact .awaitAnswer hwait trivial
    · exact .awaitAnswer hwait trivial

theorem execReadSynced_waits {cs : CodecSet} {d : Control} (h : exec (.readSynced cs d) s = .next t) :
    Waits rest (s.position.phase = .body ∧ ∃ c, currentCodec cs s = some c) s t := by
  simp only [exec, execReadSynced] at h
  refine .byPhase h (State.enterBody_onlyStatusChanged s _).askedNothing ?_
  split
  · next c hc => exact .awaitAnswer hwait ⟨c, hc⟩
  · next hnone =>
    have hreq : ¬ ∃ c, currentCodec cs s = some c := fun ⟨_, hc⟩ => nomatch hnone.symm.trans hc
    exact State.compareSynced_elim (P := Waits rest _ s) (fun _ _ _ _ => .go (askedNothing_of_kept rfl rfl) hreq)
      (fun _ _ _ _ => .nextElem (askedNothing_of_kept rfl rfl) hreq) fun _ => .finish hreq

/-- A command waits exactly where it has a request to make. -/
theorem exec_waits (h : exec i s = .next t) : Waits rest (hasRequest i s) s t := by
  cases i with
  | prepareAll g => exact execPrepareAll_waits hwait h
  | enableAll g => exact execEnableAll_waits hwait h
  | disableAll g => exact execDisableAll_waits hwait h
  | unprepareAll g => exact execUnprepareAll_waits hwait h
  | selectMaster => exact execSelectMaster_waits hwait h
  | releaseMaster => exact execReleaseMaster_waits hwait h
  | applyStartup cs =>
    exact (execApplyStartup_waits hwait h).congr (and_congr_right' (by simp only [exists_and_left]))
  | setFmtSysclk cs => exact execSetFmtSysclk_waits hwait h
  | powerUp cs => exact execPowerUp_waits hwait h
  | powerDown cs => exact (execPowerDown_waits hwait h).congr (and_congr_right' (by simp only [and_true]))
  | setVolume c ch => exact execSetVolume_waits hwait h
  | getVolume c ch => exact execGetVolume_waits hwait h
  | readSynced cs d => exact execReadSynced_waits hwait h
  | writeSynced cs d => exact execWriteSynced_waits hwait h

end Commands

/-- Settles O7: each command waits exactly at its requests (`exec_waits`). -/
theorem engineHoldsUntilAnswered : Obligations.EngineHoldsUntilAnswered := by
  unfold Obligations.EngineHoldsUntilAnswered
  intro i s rest hwait
  obtain ⟨t, h⟩ := exec_isNext i s
  obtain ⟨hhold, hgo⟩ := exec_waits hwait h
  exact ⟨fun hreq => by rw [h, hhold hreq]; rfl, fun hreq => ⟨t, h, hgo hreq⟩⟩

end Sys2Proof.Machine
end

section
/-! PROOFS. What one engine step leaves alone beside the codec registers (R38, R149): the time, the flags it does not
mark, and all but one request of the history (R77, R123). -/
namespace Sys2Proof.Machine

variable {i : Instr} {s t x y : State}

/-! ## What a step does -/

/-- The commands that can mark GLITCH_RISK (R137). -/
def marksGlitch : Instr → Prop
  | .disableAll _ => True
  | .releaseMaster => True
  | _ => False

/-- The commands that can mark TEARDOWN_FAULT (R141). -/
def marksTeardown : Instr → Prop
  | .disableAll _ => True
  | .unprepareAll _ => True
  | .releaseMaster => True
  | _ => False

/-- The registers that command i reads through the transport (R192, R193). -/
def readsRegister (cfg : Config) (i : Instr) (c : CodecId) (a : Nat) : Prop :=
  match i with
  | .getVolume c' ch => c = c' ∧ (a = addrAttLsb cfg ch ∨ a = addrAttMsb cfg ch)
  | .readSynced cs d => c ∈ codecList cs ∧ a = (enumDesc cfg d).addr
  | _ => False

/-- The events that one step of command i at s can record (R84, R123): at most one request. -/
inductive StepEvents (i : Instr) (s : State) : List Event → Prop
  | none : StepEvents i s []
  | clkReq (op : ClkOp) (k : Clock) (ok : Bool) : StepEvents i s [.clkReq op k ok]
  | gateEnabled (ms : Nat) : StepEvents i s [.clkReq .enable .gate true, .settleStart ms]
  | settled (ms : Nat) : StepEvents i s [.settleEnd ms]
  | memRead (c : CodecId) (a : Nat) (v : Option Nat) (reads : readsRegister s.cfg i c a) :
      StepEvents i s [.memRead c a v]
  | memWrite (c : CodecId) (a v : Nat) (ok : Bool) : StepEvents i s [.memWrite c a v ok]

/-- What a step of command i from s to t does to the history, the time and FLAGS. -/
structure StepDid (i : Instr) (s t : State) : Prop where
  events   : ∃ evs, recorded s t evs ∧ StepEvents i s evs
  now      : i ≠ .selectMaster → t.now = s.now
  glitch   : ¬ marksGlitch i → t.win.glitchRisk = s.win.glitchRisk
  teardown : ¬ marksTeardown i → t.win.teardownFault = s.win.teardownFault

namespace StepDid

theorem refl (i : Instr) (s : State) : StepDid i s s :=
  ⟨⟨[], by simp [recorded], .none⟩, fun _ => rfl, fun _ => rfl, fun _ => rfl⟩

/-- What changes none of them may follow. -/
theorem kept (h : StepDid i s x) (hhistory : y.history = x.history := by rfl) (hnow : y.now = x.now := by rfl)
    (hglitch : y.win.glitchRisk = x.win.glitchRisk := by rfl)
    (hteardown : y.win.teardownFault = x.win.teardownFault := by rfl) : StepDid i s y := by
  obtain ⟨evs, hrec, hevs⟩ := h.events
  exact ⟨⟨evs, hhistory.trans hrec, hevs⟩, fun hi => hnow.trans (h.now hi), fun hi => hglitch.trans (h.glitch hi),
    fun hi => hteardown.trans (h.teardown hi)⟩

theorem of_check (h : onlyStatusChanged s t) : StepDid i s t := by
  obtain ⟨-, -, -, -, -, hhistory, hnow, -, -, -, -, -, -, -, -, hglitch, hteardown⟩ := h.kept
  exact (refl i s).kept hhistory hnow hglitch hteardown

theorem flagTeardown (h : StepDid i s x) (hi : marksTeardown i) : StepDid i s x.flagTeardown :=
  ⟨h.events, h.now, h.glitch, fun hn => absurd hi hn⟩

theorem flagGlitchIf (h : StepDid i s x) (hi : marksGlitch i) (b : Bool) :
    StepDid i s (if b then x.flagGlitch else x) := by
  cases b
  · exact h
  · exact ⟨h.events, h.now, fun hn => absurd hi hn, h.teardown⟩

theorem ifThenElse {p : Prop} [Decidable p] {u v : State} (hu : StepDid i s u) (hv : StepDid i s v) :
    StepDid i s (if p then u else v) := by
  split
  · exact hu
  · exact hv

theorem finish (h : StepDid i s x) : StepDid i s x.finish := h.kept

theorem nextElem (h : StepDid i s x) {n : Nat} {last : State → State} (hlast : StepDid i s (last x)) :
    StepDid i s (x.nextElem n last) :=
  ifThenElse h.kept hlast

theorem enterBody (h : StepDid i s x) {n : Nat} : StepDid i s (x.enterBody n) :=
  ifThenElse h.finish h.kept

theorem atElem {α : Type} {l : List α} {f : α → State}
    (h : ∀ a, l[s.position.elem]? = some a → StepDid i s (f a)) : StepDid i s (s.atElem l f) :=
  State.atElem_elim (P := StepDid i s) h fun _ => (refl i s).finish

theorem byPhase {checks body : State → State} (h : s.byPhase checks body = .next t)
    (hchecks : StepDid i s (checks s)) (hbody : StepDid i s (body s)) : StepDid i s t :=
  State.byPhase_elim (P := StepDid i s) h (fun _ => hchecks) (fun _ => hbody) fun _ => (refl i s).finish

theorem byGuards {first : Option State} {gs : List GuardCheck} {n : Nat} {body : State → State}
    (h : s.byGuards first gs n body = .next t) (hfirst : ∀ u, first = some u → StepDid i s u)
    (hbody : StepDid i s (body s)) : StepDid i s t :=
  State.byGuards_elim (P := StepDid i s) h (fun u _ hu => hfirst u hu)
    (fun _ _ => of_check (State.enterGuards_onlyStatusChanged s gs n))
    (fun _ => of_check (State.guardStep_onlyStatusChanged s gs n)) fun _ => hbody

/-! ### The requests -/

/-- One event, and nothing else but the draw. -/
theorem record {e : Event} (he : StepEvents i s [e]) (env : Environment) :
    StepDid i s (({ s with env := env } : State).record e) :=
  ⟨⟨[e], rfl, he⟩, fun _ => rfl, fun _ => rfl, fun _ => rfl⟩

theorem clkReq {op : ClkOp} {k : Clock} {cont : Bool → State → State}
    (h : ∀ ok x, StepDid i s x → StepDid i s (cont ok x)) : StepDid i s (s.clkReq op k cont) :=
  State.clkReq_elim (P := StepDid i s) (fun _ => (refl i s).kept) fun ok _ => h ok _ (record (.clkReq op k ok) _)

theorem startReq {op : ClkOp} {k : Clock} {code : Code} {onOk : State → State}
    (h : ∀ x, StepDid i s x → StepDid i s (onOk x)) : StepDid i s (s.startReq op k code onOk) :=
  clkReq fun _ x hx => ifThenElse (h x hx) hx.kept

theorem teardownReq {op : ClkOp} {k : Clock} {done : State → State} (hi : marksTeardown i)
    (h : ∀ x, StepDid i s x → StepDid i s (done x)) : StepDid i s (s.teardownReq op k done) :=
  clkReq fun _ _ hx => h _ (ifThenElse hx (hx.flagTeardown hi))

theorem writeReg {c : CodecId} {a v : Nat} {cont : Bool → State → State}
    (h : ∀ ok x, StepDid i s x → StepDid i s (cont ok x)) : StepDid i s (s.writeReg c a v cont) :=
  State.writeReg_elim (P := StepDid i s) (fun _ => (refl i s).kept) fun d e =>
    h d.ok _ ((record (.memWrite c a v d.ok) e).kept)

theorem rmw {c : CodecId} {a clear set : Nat} {cont : Bool → State → State}
    (h : ∀ ok x, StepDid i s x → StepDid i s (cont ok x)) : StepDid i s (s.rmw c a clear set cont) :=
  State.rmw_elim (P := StepDid i s) (fun _ => (refl i s).kept) (fun _ _ _ => (refl i s).kept) fun base _ d e =>
    h d.ok _ ((record (.memWrite c a (rmwValue s.cfg base clear set) d.ok) e).kept)

theorem readReg {c : CodecId} {a : Nat} {cont : Nat → State → State} (hr : readsRegister s.cfg i c a)
    (h : ∀ v x, StepDid i s x → StepDid i s (cont v x)) : StepDid i s (s.readReg c a cont) :=
  State.readReg_elim (P := StepDid i s) (fun _ => (refl i s).kept) (fun _ e _ => h _ _ (record (.memRead c a _ hr) e))
    fun _ e => (record (.memRead c a none hr) e).kept

end StepDid

/-! ## The commands -/

theorem execPrepareAll_did {g : Group} (h : exec (.prepareAll g) s = .next t) : StepDid (.prepareAll g) s t := by
  have hs := StepDid.refl (.prepareAll g) s
  simp only [exec, execPrepareAll] at h
  exact .byPhase h hs.enterBody (.atElem fun k _ => .ifThenElse (hs.nextElem hs.finish)
    (.startReq fun _ hx => .nextElem hx.kept hx.kept))

theorem execEnableAll_did {g : Group} (h : exec (.enableAll g) s = .next t) : StepDid (.enableAll g) s t := by
  have hs := StepDid.refl (.enableAll g) s
  simp only [exec, execEnableAll] at h
  exact .byGuards h (fun _ hu => nomatch hu) (.atElem fun k _ => .ifThenElse (hs.nextElem hs.finish)
    (.startReq fun _ hx => .nextElem hx.kept hx.kept))

theorem execDisableAll_did {g : Group} (h : exec (.disableAll g) s = .next t) : StepDid (.disableAll g) s t := by
  have hs := StepDid.refl (.disableAll g) s
  simp only [exec, execDisableAll] at h
  exact .byPhase h (.enterBody hs.kept) (.atElem fun k _ => .ifThenElse
    (.teardownReq trivial fun x hx =>
      have hx := hx.flagGlitchIf trivial x.position.up
      .nextElem hx.kept hx.kept) (hs.nextElem hs.finish))

theorem execUnprepareAll_did {g : Group} (h : exec (.unprepareAll g) s = .next t) :
    StepDid (.unprepareAll g) s t := by
  have hs := StepDid.refl (.unprepareAll g) s
  simp only [exec, execUnprepareAll] at h
  exact .byGuards h (fun _ hu => nomatch hu) (.atElem fun k _ => .ifThenElse
    (.teardownReq trivial fun _ hx => .nextElem hx.kept hx.kept) (hs.nextElem hs.finish))

/-- The gate enable records the start of the settle wait with its request (R162, R165). -/
theorem enableGate_did : StepDid i s (enableGate s) :=
  State.startReq_elim (P := StepDid i s) (fun _ => (StepDid.refl i s).kept)
    (fun _ => ⟨⟨_, by simp [recorded], .gateEnabled s.now⟩, fun _ => rfl, fun _ => rfl, fun _ => rfl⟩)
    fun _ => (StepDid.record (.clkReq .enable .gate false) _).kept

theorem endSettle_did : StepDid .selectMaster s (endSettle s) :=
  State.awaitAnswer_elim (P := StepDid .selectMaster s) (fun _ => (StepDid.refl _ s).kept) fun _ _ =>
    ⟨⟨_, rfl, .settled _⟩, fun hi => absurd rfl hi, fun _ => rfl, fun _ => rfl⟩

theorem execSelectMaster_did (h : exec .selectMaster s = .next t) : StepDid .selectMaster s t := by
  have hs := StepDid.refl .selectMaster s
  simp only [exec, execSelectMaster] at h
  refine .byPhase h ?_ ?_
  · split
    · exact hs.kept
    · exact .ifThenElse hs.kept hs.enterBody
  · split
    · exact hs.kept
    · exact .clkReq fun _ _ hx => .ifThenElse hx.kept hx.kept
    · exact .startReq fun _ hx => hx.kept
    · exact enableGate_did
    · exact endSettle_did

theorem execReleaseMaster_did (h : exec .releaseMaster s = .next t) : StepDid .releaseMaster s t := by
  have hs := StepDid.refl .releaseMaster s
  simp only [exec, execReleaseMaster] at h
  refine .byPhase h (.enterBody hs.kept) ?_
  split
  · exact .ifThenElse (.teardownReq trivial fun x hx => (hx.flagGlitchIf trivial x.position.up).kept) hs.kept
  · exact .ifThenElse (.teardownReq trivial fun _ hx => hx.kept) hs.finish

theorem execApplyStartup_did {cs : CodecSet} (h : exec (.applyStartup cs) s = .next t) :
    StepDid (.applyStartup cs) s t := by
  have hs := StepDid.refl (.applyStartup cs) s
  simp only [exec, execApplyStartup] at h
  refine .byGuards h (fun _ hu => nomatch hu) (.atElem fun c _ => ?_)
  split
  · exact hs.kept
  · split
    · exact hs.nextElem hs.finish
    · exact .writeReg fun _ _ hx => .ifThenElse (.ifThenElse hx.kept (hx.nextElem hx.finish)) hx.kept

theorem execSetFmtSysclk_did {cs : CodecSet} (h : exec (.setFmtSysclk cs) s = .next t) :
    StepDid (.setFmtSysclk cs) s t := by
  simp only [exec, execSetFmtSysclk] at h
  refine .byGuards h (fun u hu => ?_) (.atElem fun c _ => .rmw fun _ _ hx =>
    .ifThenElse (.nextElem hx.kept hx.kept) hx.kept)
  split at hu
  · exact Option.some.inj hu ▸ (StepDid.refl _ s).kept
  · split at hu
    · exact Option.some.inj hu ▸ (StepDid.refl _ s).kept
    · exact nomatch hu

theorem execPowerUp_did {cs : CodecSet} (h : exec (.powerUp cs) s = .next t) : StepDid (.powerUp cs) s t := by
  simp only [exec, execPowerUp] at h
  refine .byGuards h (fun u hu => ?_) (.atElem fun c _ => .rmw fun _ _ hx =>
    .ifThenElse (hx.nextElem hx.finish) hx.kept)
  split at hu
  · exact Option.some.inj hu ▸ (StepDid.refl _ s).kept
  · exact nomatch hu

theorem endPowerDown_did (h : StepDid i s x) : StepDid i s x.endPowerDown :=
  State.endPowerDown_elim (P := StepDid i s) (fun _ _ => h.kept) fun _ => h.kept

theorem execPowerDown_did {cs : CodecSet} (h : exec (.powerDown cs) s = .next t) : StepDid (.powerDown cs) s t := by
  simp only [exec, execPowerDown] at h
  refine .byPhase h (StepDid.refl _ s).enterBody (.atElem fun c _ => .writeReg fun ok x hx => ?_)
  have hnoted : StepDid (.powerDown cs) s
      (if ok then x else x.goTo fun p => { p with first := p.first.or (some c) }) := .ifThenElse hx hx.kept
  exact .nextElem hnoted.kept (endPowerDown_did hnoted.kept)

theorem execSetVolume_did {c : CodecId} {ch : Channel} (h : exec (.setVolume c ch) s = .next t) :
    StepDid (.setVolume c ch) s t := by
  have hs := StepDid.refl (.setVolume c ch) s
  simp only [exec, execSetVolume] at h
  refine .byPhase h (.ifThenElse hs.kept (.ifThenElse hs.kept hs.enterBody)) ?_
  split
  · exact .writeReg fun _ _ hx => .ifThenElse hx.kept hx.kept
  · exact .writeReg fun _ _ hx => .ifThenElse hx.kept hx.kept

theorem execGetVolume_did {c : CodecId} {ch : Channel} (h : exec (.getVolume c ch) s = .next t) :
    StepDid (.getVolume c ch) s t := by
  have hs := StepDid.refl (.getVolume c ch) s
  simp only [exec, execGetVolume] at h
  refine .byPhase h (.ifThenElse hs.kept hs.enterBody) ?_
  split
  · exact .readReg ⟨rfl, .inl rfl⟩ fun _ _ hx => hx.kept
  · exact .readReg ⟨rfl, .inr rfl⟩ fun _ _ hx => hx.kept

theorem execReadSynced_did {cs : CodecSet} {d : Control} (h : exec (.readSynced cs d) s = .next t) :
    StepDid (.readSynced cs d) s t := by
  have hs := StepDid.refl (.readSynced cs d) s
  simp only [exec, execReadSynced] at h
  refine .byPhase h hs.enterBody ?_
  split
  · next c hc => exact .readReg ⟨List.mem_of_getElem? hc, rfl⟩ fun _ _ hx => .nextElem hx.kept hx.kept
  · exact State.compareSynced_elim (P := StepDid (.readSynced cs d) s) (fun _ _ _ _ => hs.kept)
      (fun _ _ _ _ => hs.nextElem hs.kept) fun _ => hs.finish

theorem execWriteSynced_did {cs : CodecSet} {d : Control} (h : exec (.writeSynced cs d) s = .next t) :
    StepDid (.writeSynced cs d) s t := by
  have hs := StepDid.refl (.writeSynced cs d) s
  simp only [exec, execWriteSynced] at h
  exact .byPhase h (.ifThenElse hs.kept hs.enterBody) (.atElem fun c _ => .rmw fun _ _ hx =>
    .ifThenElse (hx.nextElem hx.finish) hx.kept)

/-- One engine step of any command. -/
theorem exec_did (h : exec i s = .next t) : StepDid i s t := by
  cases i with
  | prepareAll g => exact execPrepareAll_did h
  | enableAll g => exact execEnableAll_did h
  | disableAll g => exact execDisableAll_did h
  | unprepareAll g => exact execUnprepareAll_did h
  | selectMaster => exact execSelectMaster_did h
  | releaseMaster => exact execReleaseMaster_did h
  | applyStartup cs => exact execApplyStartup_did h
  | setFmtSysclk cs => exact execSetFmtSysclk_did h
  | powerUp cs => exact execPowerUp_did h
  | powerDown cs => exact execPowerDown_did h
  | setVolume c ch => exact execSetVolume_did h
  | getVolume c ch => exact execGetVolume_did h
  | readSynced cs d => exact execReadSynced_did h
  | writeSynced cs d => exact execWriteSynced_did h

end Sys2Proof.Machine
end

section
/-! PROOFS. The frames of the commands (R38, R149), and the requests of one step (R60, R62, R77, R123). -/
namespace Sys2Proof.Machine

variable {i : Instr} {s t : State} {c : CodecId}

/-! ## Commands that store to no codec register -/

/-- The commands that write no codec register (R151 to R156, R192, R193). -/
def storesNothing : Instr → Prop
  | .prepareAll _ => True
  | .enableAll _ => True
  | .disableAll _ => True
  | .unprepareAll _ => True
  | .selectMaster => True
  | .releaseMaster => True
  | .getVolume _ _ => True
  | .readSynced _ _ => True
  | _ => False

theorem storeTarget_of_storesNothing (hi : storesNothing i) (s : State) : storeTarget i s = none := by
  unfold storeTarget
  cases s.position.phase with
  | start | guards => rfl
  | body =>
    cases i with
    | applyStartup cs | setFmtSysclk cs | powerUp cs | powerDown cs | setVolume c ch | writeSynced cs d => exact hi.elim
    | _ => rfl

/-- They leave the codecs, their shadows and the reference codec alone. -/
theorem exec_of_storesNothing (h : exec i s = .next t) (hi : storesNothing i) :
    (∀ c, t.codec c = s.codec c) ∧ t.ref = s.ref ∧ registersKeptBut s t none := by
  have htarget := storeTarget_of_storesNothing hi s
  have hregs := (exec_registers h).registersKeptBut (exec_shape h).hostSideKept.1
  rw [htarget] at hregs
  rcases exec_registers h with ⟨-, href, hkept | ⟨cs, _, rfl, -⟩⟩ | ⟨c, a, v, d, hw⟩
  · exact ⟨hkept, href, hregs⟩
  · exact hi.elim
  · exact nomatch htarget.symm.trans hw.target

/-- DATA is kept by every command that returns no value (R40). -/
theorem exec_data_kept (h : exec i s = .next t) (hi : ¬ returnsData i) : t.win.data = s.win.data :=
  by_contra fun hne => hi ((exec_shape h).dataWritten hne).1

/-- A command that neither marks a flag nor returns a value leaves FLAGS and DATA alone. -/
theorem exec_flagsAndDataKept (h : exec i s = .next t) (hglitch : ¬ marksGlitch i) (hteardown : ¬ marksTeardown i)
    (hdata : ¬ returnsData i) : flagsAndDataKept s t :=
  ⟨(exec_did h).glitch hglitch, (exec_did h).teardown hteardown, exec_data_kept h hdata⟩

/-! ## The group commands -/

/-- A group command keeps every reading of the clocks that its change of a clock of the group keeps. -/
theorem clockStep.kept {l : List Consumer} {due : Consumer → Prop} {op : ClkOp} {answer : Bool → Prop}
    {f : Consumer → ClockState → ClockState} (h : clockStep l due op answer f s t) {α : Type} (g : ClockState → α)
    (hg : ∀ k ∈ l, g (f k s.clk) = g s.clk) : g t.clk = g s.clk := by
  rcases h with hsame | ⟨k, _, hmem, -, -, -, hclk, -⟩
  · rw [hsame]
  · rw [hclk, hg k hmem]

theorem setPrepared_flags_of_notMem {l : List Consumer} {k k' : Consumer} (hk : k ∉ l) (hk' : k' ∈ l)
    (x : ClockState) (b : Bool) : (x.setPrepared k' b).flags k = x.flags k := by
  rw [ClockState.setPrepared_flags, if_neg (ne_of_mem_of_not_mem hk' hk).symm]

theorem setEnabled_flags_of_notMem {l : List Consumer} {k k' : Consumer} (hk : k ∉ l) (hk' : k' ∈ l)
    (x : ClockState) (b : Bool) : (x.setEnabled k' b).flags k = x.flags k := by
  rw [ClockState.setEnabled_flags, if_neg (ne_of_mem_of_not_mem hk' hk).symm]

/-- PREPARE_ALL and UNPREPARE_ALL change `prepared` of the group's clocks only. -/
theorem exec_prepared_frame {g : Group} (hi : i = .prepareAll g ∨ i = .unprepareAll g) (h : exec i s = .next t) :
    (∀ k, k ∉ groupList s.cfg g → t.clk.flags k = s.clk.flags k) ∧ ∀ k, t.clk.enabled k = s.clk.enabled k := by
  rcases hi with rfl | rfl
  · exact ⟨fun k hk => (execPrepareAll_clk h).kept (·.flags k) fun k' hk' => setPrepared_flags_of_notMem hk hk' _ _,
      fun k => (execPrepareAll_clk h).kept (·.enabled k) fun k' _ => ClockState.enabled_setPrepared ..⟩
  · exact ⟨fun k hk => (execUnprepareAll_clk h).kept (·.flags k) fun k' hk' =>
        setPrepared_flags_of_notMem hk (List.mem_reverse.mp hk') _ _,
      fun k => (execUnprepareAll_clk h).kept (·.enabled k) fun k' _ => ClockState.enabled_setPrepared ..⟩

/-- ENABLE_ALL and DISABLE_ALL change `enabled` of the group's clocks only. -/
theorem exec_enabled_frame {g : Group} (hi : i = .enableAll g ∨ i = .disableAll g) (h : exec i s = .next t) :
    (∀ k, k ∉ groupList s.cfg g → t.clk.flags k = s.clk.flags k) ∧ ∀ k, t.clk.prepared k = s.clk.prepared k := by
  rcases hi with rfl | rfl
  · exact ⟨fun k hk => (execEnableAll_clk h).kept (·.flags k) fun k' hk' => setEnabled_flags_of_notMem hk hk' _ _,
      fun k => (execEnableAll_clk h).kept (·.prepared k) fun k' _ => ClockState.prepared_setEnabled ..⟩
  · exact ⟨fun k hk => (execDisableAll_clk h).kept (·.flags k) fun k' hk' =>
        setEnabled_flags_of_notMem hk (List.mem_reverse.mp hk') _ _,
      fun k => (execDisableAll_clk h).kept (·.prepared k) fun k' _ => ClockState.prepared_setEnabled ..⟩

/-- What the four group commands have in common. -/
theorem groupCommand_kinds {g : Group}
    (hi : i = .prepareAll g ∨ i = .enableAll g ∨ i = .disableAll g ∨ i = .unprepareAll g) :
    storesNothing i ∧ ¬ returnsData i ∧ i ≠ .selectMaster ∧ ¬ masterCommand i := by
  rcases hi with rfl | rfl | rfl | rfl <;> exact ⟨trivial, not_false, nofun, by simp [masterCommand]⟩

/-- Settles O29: no register is stored to (`exec_of_storesNothing`), the gate and the mux are kept (`clocksKept`), and
the group's clocks move by `clockStep`. -/
theorem groupCommandsChangeOnlyTheirFlags : Obligations.GroupCommandsChangeOnlyTheirFlags := by
  unfold Obligations.GroupCommandsChangeOnlyTheirFlags
  intro g i s t hi h
  obtain ⟨hstores, hdata, hselect, hmaster⟩ := groupCommand_kinds hi
  obtain ⟨hcodec, href, hregs⟩ := exec_of_storesNothing h hstores
  obtain ⟨hgp, hge, hm, hmux, hsp⟩ := (exec_shape h).clocksKept.masterPart hmaster
  have hdid := exec_did h
  refine ⟨(exec_shape h).hostSideKept, hregs, hcodec, href, hdid.now hselect, exec_data_kept h hdata, hgp, hge, hm, hmux,
    hsp, ?_, fun hi => (exec_prepared_frame hi h).2, fun hi => (exec_enabled_frame hi h).2, fun hi => ?_, ?_⟩
  · rcases hi with hi | hi | hi | hi
    · exact (exec_prepared_frame (.inl hi) h).1
    · exact (exec_enabled_frame (.inl hi) h).1
    · exact (exec_enabled_frame (.inr hi) h).1
    · exact (exec_prepared_frame (.inr hi) h).1
  · rcases hi with rfl | rfl
    · exact exec_flagsAndDataKept h not_false not_false not_false
    · exact exec_flagsAndDataKept h not_false not_false not_false
  · rintro rfl
    exact hdid.glitch not_false

/-! ## The master clock commands -/

/-- The mux selection and the settle wait are as in s (R28, R29). -/
def selectionKept (s t : State) : Prop :=
  t.clk.muxSel = s.clk.muxSel ∧ t.clk.settlePending = s.clk.settlePending

/-- RELEASE_MASTER leaves the mux selection and the settle wait alone (R28, R156). -/
theorem execReleaseMaster_selectionKept (h : exec .releaseMaster s = .next t) : selectionKept s t := by
  simp only [exec, execReleaseMaster] at h
  refine State.byPhase_elim (P := selectionKept s) h (fun _ => ?_) (fun _ => ?_) fun _ => ⟨rfl, rfl⟩
  · exact State.enterBody_elim (P := selectionKept s) (fun _ => ⟨rfl, rfl⟩) fun _ => ⟨rfl, rfl⟩
  · split
    · split
      · refine State.teardownReq_elim (P := selectionKept s) (fun _ => ⟨rfl, rfl⟩) (fun _ => ?_) fun _ => ?_
        · split <;> exact ⟨rfl, rfl⟩
        · split <;> exact ⟨rfl, rfl⟩
      · exact ⟨rfl, rfl⟩
    · split
      · exact State.teardownReq_elim (P := selectionKept s) (fun _ => ⟨rfl, rfl⟩) (fun _ => ⟨rfl, rfl⟩)
          fun _ => ⟨rfl, rfl⟩
      · exact ⟨rfl, rfl⟩

/-- Settles O30: `exec_of_storesNothing` and `clocksKept`; of the gate and the mux RELEASE_MASTER keeps
`selectionKept`. -/
theorem masterCommandsChangeOnlyTheGateAndMux : Obligations.MasterCommandsChangeOnlyTheGateAndMux := by
  unfold Obligations.MasterCommandsChangeOnlyTheGateAndMux
  intro i s t hi h
  have hkept := (exec_shape h).clocksKept
  have hhost := (exec_shape h).hostSideKept
  rcases hi with rfl | rfl
  · obtain ⟨hcodec, href, hregs⟩ := exec_of_storesNothing h trivial
    exact ⟨hhost, hregs, hcodec, href, exec_data_kept h not_false, hkept,
      fun _ => exec_flagsAndDataKept h not_false not_false not_false, nofun⟩
  · obtain ⟨hcodec, href, hregs⟩ := exec_of_storesNothing h trivial
    obtain ⟨hmux, hsp⟩ := execReleaseMaster_selectionKept h
    exact ⟨hhost, hregs, hcodec, href, exec_data_kept h not_false, hkept, nofun,
      fun _ => ⟨hmux, hsp, (exec_did h).now nofun⟩⟩

/-! ## The codec and control commands -/

/-- A codec command leaves every codec but its current one alone, the reference codec's too. -/
theorem exec_otherCodec_kept {cs : CodecSet} (hi : writesFmtctl i cs) (h : exec i s = .next t)
    (hne : currentCodec cs s ≠ some c) : t.codec c = s.codec c ∧ t.ref.codec c = s.ref.codec c := by
  rcases exec_registers h with ⟨-, href, hkept | ⟨cs', c', rfl, -, hcur, -, hcleared⟩⟩ | ⟨c', a, v, d, hw⟩
  · exact ⟨hkept c, by rw [href]⟩
  · obtain rfl : cs' = cs := by simpa [writesFmtctl] using hi
    have hcc : c ≠ c' := by
      rintro rfl
      exact hne hcur
    exact ⟨by rw [hcleared, if_neg hcc], by rw [href]⟩
  · have hcc : c ≠ c' := by
      rintro rfl
      exact hne (currentCodec_of_storeTarget hi hw.target)
    exact ⟨by rw [hw.codec, if_neg hcc], by rw [hw.ref, RefModel.write_codec_ne _ _ _ _ _ hcc]⟩

/-- A step leaves the clocks, FLAGS, DATA and the time alone, and every register but the one it stores to. -/
theorem exec_codecCommand_frame (h : exec i s = .next t) (hclk : t.clk = s.clk) (hglitch : ¬ marksGlitch i)
    (hteardown : ¬ marksTeardown i) (hdata : ¬ returnsData i) (hselect : i ≠ .selectMaster) :
    hostSideKept s t ∧ flagsAndDataKept s t ∧ t.clk = s.clk ∧ t.now = s.now ∧
      registersKeptBut s t (storeTarget i s) := by
  have hhost := (exec_shape h).hostSideKept
  exact ⟨hhost, exec_flagsAndDataKept h hglitch hteardown hdata, hclk, (exec_did h).now hselect,
    (exec_registers h).registersKeptBut hhost.1⟩

/-- Settles O31: a codec command stores to its current codec only (`exec_otherCodec_kept`). -/
theorem codecCommandsStoreOnlyToTheirRegister : Obligations.CodecCommandsStoreOnlyToTheirRegister := by
  unfold Obligations.CodecCommandsStoreOnlyToTheirRegister
  intro cs i s t hi h
  have hother : ∀ c, currentCodec cs s ≠ some c → t.codec c = s.codec c ∧ t.ref.codec c = s.ref.codec c :=
    fun c => exec_otherCodec_kept hi h
  have hclk := (exec_shape h).clocksKept
  rcases hi with rfl | rfl | rfl | rfl
  all_goals
    obtain ⟨hhost, hflags, hclk, hnow, hregs⟩ :=
      exec_codecCommand_frame h hclk not_false not_false not_false nofun
    exact ⟨hhost, hflags, hclk, hnow, hregs, hother⟩

/-- A write of another register than ADDR_FMTCTL keeps the power state and the sysclk association (R142). -/
theorem exec_powerKept (hok : configOk s.cfg = true) (hi : (∃ c ch, i = .setVolume c ch) ∨ ∃ cs d, i = .writeSynced cs d)
    (h : exec i s = .next t) (c : CodecId) : powerKept s t c := by
  rcases exec_registers h with ⟨-, -, hkept | ⟨_, _, rfl, -⟩⟩ | ⟨c', a, v, d, hw⟩
  · rw [powerKept, hkept]
    exact ⟨rfl, rfl, rfl⟩
  · simp at hi
  · by_cases ha : a = s.cfg.addrFmtctl
    · subst ha
      obtain ⟨cs, hfmt, -⟩ := hw.writesFmtctl hok
      rcases hi with ⟨_, _, rfl⟩ | ⟨_, _, rfl⟩
      · simp [writesFmtctl] at hfmt
      · simp [writesFmtctl] at hfmt
    · have hcodec : t.codec c = if c = c' then CodecState.afterWrite s.cfg a v d.ok (s.codec c') else s.codec c := by
        rcases hi with ⟨_, _, rfl⟩ | ⟨_, _, rfl⟩ <;> exact hw.codec c
      rw [powerKept, hcodec]
      split
      · next hc =>
        obtain ⟨hpd, hrate, hvalid⟩ := CodecState.afterWrite_of_ne ha v d.ok (s.codec c')
        rw [hc]
        exact ⟨hpd, hrate, hvalid⟩
      · exact ⟨rfl, rfl, rfl⟩

/-- Settles O32: the registers they store to are not ADDR_FMTCTL (`exec_powerKept`). -/
theorem controlWritesStoreOnlyToTheirRegister : Obligations.ControlWritesStoreOnlyToTheirRegister := by
  unfold Obligations.ControlWritesStoreOnlyToTheirRegister
  intro i s t hok hi h
  have hpower := exec_powerKept hok hi h
  have hclk := (exec_shape h).clocksKept
  rcases hi with ⟨c, ch, rfl⟩ | ⟨cs, d, rfl⟩
  all_goals
    obtain ⟨hhost, hflags, hclk, hnow, hregs⟩ :=
      exec_codecCommand_frame h hclk not_false not_false not_false nofun
    exact ⟨hhost, hflags, hclk, hnow, hpower, hregs⟩

/-- Settles O33: a read command stores to nothing (`exec_of_storesNothing`) and marks no flag. -/
theorem readCommandsChangeOnlyData : Obligations.ReadCommandsChangeOnlyData := by
  unfold Obligations.ReadCommandsChangeOnlyData
  intro i s t hi h
  have hshape := exec_shape h
  have hdid := exec_did h
  have hclk := hshape.clocksKept
  rcases hi with ⟨c, ch, rfl⟩ | ⟨cs, d, rfl⟩
  all_goals
    obtain ⟨hcodec, href, hregs⟩ := exec_of_storesNothing h trivial
    exact ⟨hshape.hostSideKept, hclk, hcodec .left, hcodec .right, href, hdid.now nofun, hregs, hdid.glitch not_false,
      hdid.teardown not_false⟩

end Sys2Proof.Machine
end

section
/-! PROOFS. The requests of one engine step (R60, R62, R66, R77, R123): at most one, and a register access is to a register
of a present codec with a register value. -/
namespace Sys2Proof.Machine

variable {i : Instr} {s t : State} {c : CodecId} {a v : Nat}

/-- Every register a command accesses is a register of the codec (R7). -/
theorem addr_inRange {cfg : Config} (hok : configOk cfg = true) :
    (∀ ch, addrAttLsb cfg ch < 2 ^ cfg.regAddrBits) ∧ (∀ ch, addrAttMsb cfg ch < 2 ^ cfg.regAddrBits) ∧
      cfg.addrFmtctl < 2 ^ cfg.regAddrBits ∧ ∀ d, (enumDesc cfg d).addr < 2 ^ cfg.regAddrBits := by
  obtain ⟨hfixed, henum, -, -⟩ := configOk_addrs hok
  refine ⟨fun ch => hfixed _ ?_, fun ch => hfixed _ ?_, hfixed _ (by simp [fixedAddrs]), fun d => (henum d).1⟩
  · cases ch <;> simp [addrAttLsb, fixedAddrs]
  · cases ch <;> simp [addrAttMsb, fixedAddrs]

theorem readsRegister_inRange (hok : configOk s.cfg = true) (hwf : i.wellFormed s.cfg.numCodecs = true)
    (h : readsRegister s.cfg i c a) : present s.cfg c = true ∧ a < 2 ^ s.cfg.regAddrBits := by
  obtain ⟨hlsb, hmsb, -, henum⟩ := addr_inRange hok
  cases i with
  | getVolume c' ch =>
    obtain ⟨rfl, rfl | rfl⟩ := h
    · exact ⟨present_of_wellFormed hwf (List.mem_singleton.mpr rfl), hlsb ch⟩
    · exact ⟨present_of_wellFormed hwf (List.mem_singleton.mpr rfl), hmsb ch⟩
  | readSynced cs d =>
    obtain ⟨hc, rfl⟩ := h
    exact ⟨present_of_wellFormed hwf hc, henum d⟩
  | _ => exact h.elim

/-- The address a step writes is a register's (R62). -/
theorem WroteRegister.addr_lt {d : Answer} (hok : configOk s.cfg = true) (h : WroteRegister i s t c a v d) :
    a < 2 ^ s.cfg.regAddrBits := by
  obtain ⟨hlsb, hmsb, hfmt, henum⟩ := addr_inRange hok
  obtain ⟨-, -, hbatch, -⟩ := configOk_addrs hok
  have htarget := h.target
  unfold storeTarget at htarget
  rw [h.phase] at htarget
  have hmap {o : Option CodecId} {b : Nat} (hb : b < 2 ^ s.cfg.regAddrBits)
      (ht : o.map (fun c => (c, b)) = some (c, a)) : a < 2 ^ s.cfg.regAddrBits := by
    obtain ⟨_, -, heq⟩ := Option.map_eq_some_iff.mp ht
    obtain rfl : b = a := congrArg Prod.snd heq
    exact hb
  cases i with
  | applyStartup cs => exact hbatch (a, v) h.value
  | setFmtSysclk cs | powerUp cs | powerDown cs => exact hmap hfmt htarget
  | writeSynced cs q => exact hmap (henum q) htarget
  | setVolume c' ch =>
    rcases h.value with ⟨rfl, -⟩ | ⟨rfl, -⟩
    · exact hlsb ch
    · exact hmsb ch
  | _ => exact h.value.elim

/-- A codec with the shadow of x and nothing else known. -/
def CodecState.shadowOnly (x : CodecState) : CodecState := { CodecState.reset with shadow := x.shadow }

/-- The value a step writes depends on no power state or sysclk association. -/
theorem storesValue_shadowOnly (h : storesValue i s c a v) :
    storesValue i (s.onCodec c CodecState.shadowOnly) c a v := by
  have hshadow (b : Nat) : (s.onCodec c CodecState.shadowOnly).shadow c b = s.shadow c b :=
    State.shadow_congr (s := s) (t := s.onCodec c CodecState.shadowOnly) rfl c (by simp [CodecState.shadowOnly]) b
  cases i with
  | setFmtSysclk cs | powerUp cs | writeSynced cs q =>
    obtain ⟨base, hbase, hv⟩ := h
    exact ⟨base, (hshadow a).trans hbase, hv⟩
  | powerDown cs =>
    have hbase : (s.onCodec c CodecState.shadowOnly).powerDownBase c = s.powerDownBase c := by
      rw [State.powerDownBase, hshadow]
      rfl
    exact (h : v = _).trans (congrArg (· ||| s.cfg.pdMask) hbase.symm)
  | _ => exact h

/-- A sound shadow alone bounds the value that a step writes (R62). -/
theorem storesValue_lt_of_shadowSound (hok : configOk s.cfg = true) (hsound : shadowSound s c)
    (h : storesValue i s c a v) : v < 2 ^ s.cfg.regDataBits := by
  obtain ⟨hwf, hrange⟩ := hsound
  refine storesValue_lt (s := s.onCodec c CodecState.shadowOnly) hok ?_ (storesValue_shadowOnly h)
  rw [State.onCodec_codec, if_pos rfl]
  exact ⟨⟨nofun, fun _ => rfl⟩, nofun, nofun, hwf, hrange⟩

theorem StepEvents.atMostOneRequest {evs : List Event} (h : StepEvents i s evs) :
    (evs.filter fun e => match e with
      | .clkReq _ _ _ => true
      | .memRead _ _ _ => true
      | .memWrite _ _ _ _ => true
      | .settleStart _ => false
      | .settleEnd _ => false).length ≤ 1 := by
  cases h <;> simp

/-- Settles O35: what a step records is listed by `StepEvents`; a read is `readsRegister`, a write `WroteRegister`. -/
theorem eachStepIssuesAtMostOneRequestInRange : Obligations.EachStepIssuesAtMostOneRequestInRange := by
  unfold Obligations.EachStepIssuesAtMostOneRequestInRange
  intro i s t h
  obtain ⟨evs, hrec, hevs⟩ := (exec_did h).events
  refine ⟨evs, hrec, hevs.atMostOneRequest, fun hok hwf hsound e he => ?_⟩
  cases hevs with
  | none => exact nomatch he
  | clkReq op k ok | settled ms =>
    obtain rfl := List.mem_singleton.mp he
    exact ⟨nofun, nofun⟩
  | gateEnabled ms =>
    obtain rfl | he := List.mem_cons.mp he
    · exact ⟨nofun, nofun⟩
    · obtain rfl := List.mem_singleton.mp he
      exact ⟨nofun, nofun⟩
  | memRead c a v reads =>
    obtain rfl := List.mem_singleton.mp he
    refine ⟨nofun, fun c' a' v' heq => ?_⟩
    cases heq
    exact readsRegister_inRange hok hwf reads
  | memWrite c a v ok =>
    obtain rfl := List.mem_singleton.mp he
    refine ⟨fun c' a' v' ok' heq => ?_, nofun⟩
    cases heq
    obtain ⟨d, -, hw⟩ := (exec_registers h).wrote hrec
    exact ⟨present_of_wellFormed hwf (storeTarget_mem hw.target), hw.addr_lt hok,
      storesValue_lt_of_shadowSound hok (hsound c) hw.value⟩

end Sys2Proof.Machine
end

section
/-! PROOFS. A command whose requests are answered ends (R126, R148): past its guard loops every step brings the end of the
body nearer; and where the checks passed and every answer is `ok`, the end is OK or the mismatch of READ_SYNCED (R193). -/
namespace Sys2Proof.Machine

variable {i : Instr} {s t x y : State} {ok : Prop}

/-! ## How far the end of a body is -/

/-- The elements of the body of a command. -/
def bodyElems (cfg : Config) : Instr → Nat
  | .prepareAll g => (groupList cfg g).length
  | .enableAll g => (groupList cfg g).length
  | .disableAll g => (groupList cfg g).length
  | .unprepareAll g => (groupList cfg g).length
  | .selectMaster => 1
  | .releaseMaster => 1
  | .applyStartup cs => (codecList cs).length
  | .setFmtSysclk cs => (codecList cs).length
  | .powerUp cs => (codecList cs).length
  | .powerDown cs => (codecList cs).length
  | .setVolume _ _ => 1
  | .getVolume _ _ => 1
  | .readSynced cs _ => 2 * (codecList cs).length - 1
  | .writeSynced cs _ => (codecList cs).length

/-- The most steps that one element of the body takes. -/
def elemSteps (cfg : Config) : Instr → Nat
  | .selectMaster => 4
  | .releaseMaster => 2
  | .applyStartup _ => 2 + cfg.startupBatch.length
  | .setVolume _ _ => 2
  | .getVolume _ _ => 2
  | _ => 1

/-- The most steps that are left of the body at the position of s. -/
def stepsLeft (i : Instr) (s : State) : Nat :=
  (bodyElems s.cfg i - 1 - s.position.elem) * elemSteps s.cfg i + (elemSteps s.cfg i - 1 - s.position.req) + 1

theorem elemSteps_pos (cfg : Config) (i : Instr) : 0 < elemSteps cfg i := by
  cases i <;> simp [elemSteps]

/-- The bound of a command: its first step, its guard loops, its body. -/
theorem stepBound_eq (s : State) (i : Instr) :
    stepBound s.cfg i = 1 + (guardsOf s i).length + bodyElems s.cfg i * elemSteps s.cfg i := by
  cases i <;> simp [stepBound, guardsOf, bodyElems, elemSteps, enableGuards, unprepareGuards, startupGuards, fmtGuards,
    powerUpGuards, State.sysclkChecks]

/-! ## What keeps an end OK -/

/-- What the body of a command needs from element e on to end OK where every answer is `ok` (R125, R143, R190). -/
def bodyReady (i : Instr) (s : State) (e : Nat) : Prop :=
  match i with
  | .selectMaster => isMasterRate s.eng.cur.arg0 = true
  | .setFmtSysclk cs => ∀ c ∈ (codecList cs).drop e, s.shadow c s.cfg.addrFmtctl ≠ none
  | .powerUp cs => ∀ c ∈ (codecList cs).drop e, s.shadow c s.cfg.addrFmtctl ≠ none
  | .writeSynced cs d => ∀ c ∈ (codecList cs).drop e, s.shadow c (enumDesc s.cfg d).addr ≠ none
  | .powerDown _ => s.position.first = none
  | _ => True

theorem bodyReady_congr {e : Nat} (h : bodyReady i x e) (hcfg : y.cfg = x.cfg) (hcodec : ∀ c, y.codec c = x.codec c)
    (hcur : y.eng.cur = x.eng.cur) (hfirst : y.position.first = x.position.first) : bodyReady i y e := by
  have hshadow (c : CodecId) (a : Nat) : y.shadow c a = x.shadow c a := State.shadow_congr hcfg c (by rw [hcodec]) a
  cases i with
  | selectMaster | powerDown cs | setFmtSysclk cs | powerUp cs | writeSynced cs d =>
    simpa only [bodyReady, hcfg, hcur, hfirst, hshadow] using h
  | _ => exact trivial

/-- Where a step changes the current codec only, the shadows of the codecs still to come stay known. -/
theorem shadows_ahead {cs : CodecSet} {c : CodecId} {a : Nat} (hcur : (codecList cs)[s.position.elem]? = some c)
    (hcfg : x.cfg = s.cfg) (hkept : ∀ c', c' ≠ c → x.codec c' = s.codec c')
    (h : ∀ c ∈ (codecList cs).drop s.position.elem, s.shadow c a ≠ none) :
    ∀ c' ∈ (codecList cs).drop (s.position.elem + 1), x.shadow c' a ≠ none := by
  intro c' hc'
  have hne : c' ≠ c := ne_of_mem_drop (by cases cs <;> decide) hcur hc'
  rw [State.shadow_congr hcfg c' (by rw [hkept c' hne])]
  exact h c' ((List.drop_sublist_drop_left _ (Nat.le_succ _)).subset hc')

/-- A command ended OK, or a READ_SYNCED of both codecs found a mismatch at the right one (R193). -/
def endsWell (i : Instr) (cfg : Config) (t : State) : Prop :=
  t.endedWith .ok 0 0 ∨ ∃ d, i = .readSynced .lr d ∧ t.endedWith .desyncError 1 (enumDesc cfg d).addr

/-- From s command i came to t, where it has ended, or is in its body with fewer than n steps left. Where `ok` holds, it
ended well or can still do so. -/
inductive Leads (ok : Prop) (i : Instr) (s t : State) (n : Nat) : Prop
  | ended (idle : t.eng.busy = false) (well : ok → endsWell i s.cfg t)
  | body (busy : t.eng.busy = true) (phase : t.position.phase = .body) (left : stepsLeft i t < n)
      (cfg : t.cfg = s.cfg) (answers : t.env.answers = s.env.answers ∨ t.env.answers = s.env.answers.tail)
      (ready : ok → bodyReady i t t.position.elem)

/-- From s to x a step of a body made its request, and has still to move or to end. -/
structure Answering (s x : State) : Prop where
  cfg     : x.cfg = s.cfg
  busy    : x.eng.busy = true
  phase   : x.position.phase = .body
  elem    : x.position.elem = s.position.elem
  req     : x.position.req = s.position.req
  answers : x.env.answers = s.env.answers ∨ x.env.answers = s.env.answers.tail

namespace Answering

theorem kept (h : Answering s x) (hcfg : y.cfg = x.cfg := by rfl) (heng : y.eng = x.eng := by rfl)
    (henv : y.env = x.env := by rfl) : Answering s y := by
  have hp : y.position = x.position := by rw [State.position, State.position, heng]
  exact ⟨hcfg.trans h.cfg, heng ▸ h.busy, hp ▸ h.phase, hp ▸ h.elem, hp ▸ h.req, henv ▸ h.answers⟩

/-- A step notes a local variable of its pseudocode (log 22). -/
theorem note (h : Answering s x) (f : Position → Position)
    (hf : ∀ p, (f p).phase = p.phase ∧ (f p).elem = p.elem ∧ (f p).req = p.req := by exact fun _ => ⟨rfl, rfl, rfl⟩) :
    Answering s (x.goTo f) := by
  obtain ⟨fphase, felem, freq⟩ := hf x.position
  exact ⟨h.cfg, h.busy, fphase.trans h.phase, felem.trans h.elem, freq.trans h.req, h.answers⟩

end Answering

namespace Leads

/-! ### The shared operations -/

theorem finish {n : Nat} : Leads ok i s x.finish n := .ended rfl fun _ => .inl (x.raise_endedWith _ _ _)

/-- An end that is not OK is no end of a run that must end well. -/
theorem raise {n : Nat} (hn : ¬ ok) (code : Code) (id addr : Nat) : Leads ok i s (x.raise code id addr) n :=
  .ended rfl fun h => absurd h hn

theorem ifThenElse {n : Nat} {p : Prop} [Decidable p] {u v : State} (hu : p → Leads ok i s u n)
    (hv : ¬ p → Leads ok i s v n) : Leads ok i s (if p then u else v) n := by
  split
  · next hp => exact hu hp
  · next hp => exact hv hp

theorem nextReq (hx : Answering s x) (hreq : s.position.req + 1 < elemSteps s.cfg i)
    (hready : ok → bodyReady i x s.position.elem) : Leads ok i s x.nextReq (stepsLeft i s) := by
  refine .body hx.busy hx.phase ?_ hx.cfg hx.answers fun h => ?_
  · show (bodyElems x.cfg i - 1 - x.position.elem) * elemSteps x.cfg i +
      (elemSteps x.cfg i - 1 - (x.position.req + 1)) + 1 < _
    rw [hx.cfg, hx.elem, hx.req, stepsLeft]
    omega
  · show bodyReady i x.nextReq x.position.elem
    rw [hx.elem]
    exact bodyReady_congr (hready h) rfl (fun c => State.goTo_codec x _ c) rfl rfl

theorem nextElem (hx : Answering s x) {last : State → State} (hready : ok → bodyReady i x (s.position.elem + 1))
    (hlast : Leads ok i s (last x) (stepsLeft i s)) :
    Leads ok i s (x.nextElem (bodyElems s.cfg i) last) (stepsLeft i s) := by
  refine State.nextElem_elim (P := (Leads ok i s · _)) (fun hmore => ?_) fun _ => hlast
  rw [hx.elem] at hmore
  refine .body hx.busy hx.phase ?_ hx.cfg hx.answers fun h => ?_
  · show (bodyElems x.cfg i - 1 - (x.position.elem + 1)) * elemSteps x.cfg i + (elemSteps x.cfg i - 1 - 0) + 1 < _
    obtain ⟨m, hm⟩ : ∃ m, bodyElems s.cfg i - 1 - s.position.elem = m + 1 :=
      ⟨bodyElems s.cfg i - 1 - s.position.elem - 1, by omega⟩
    have hm' : bodyElems s.cfg i - 1 - (s.position.elem + 1) = m := by omega
    have hpos := elemSteps_pos s.cfg i
    rw [hx.cfg, hx.elem, stepsLeft, hm, hm', Nat.succ_mul]
    omega
  · show bodyReady i (x.goTo _) (x.position.elem + 1)
    rw [hx.elem]
    exact bodyReady_congr (hready h) rfl (fun c => State.goTo_codec x _ c) rfl rfl

theorem atElem {α : Type} {l : List α} {f : α → State} {n : Nat}
    (h : ∀ a, l[s.position.elem]? = some a → Leads ok i s (f a) n) : Leads ok i s (s.atElem l f) n :=
  State.atElem_elim (P := (Leads ok i s · n)) h fun _ => finish

section Requests

variable {d : Answer} {rest : List (Option Answer)} {n : Nat} (hs : Answering s s)
  (hans : s.env.answers = some d :: rest) (hd : ok → d.ok = true)
include hs hans

/-- The state after an answer has been taken. -/
theorem answering_tail : Answering s { s with env := { s.env with answers := rest } } :=
  ⟨rfl, hs.busy, hs.phase, rfl, rfl, .inr (by rw [hans]; rfl)⟩

theorem clkReq {op : ClkOp} {k : Clock} {cont : Bool → State → State}
    (h : ∀ x, Answering s x → x.eng = s.eng → Leads ok i s (cont d.ok x) n) : Leads ok i s (s.clkReq op k cont) n := by
  rw [State.clkReq_some hans]
  exact h _ (answering_tail hs hans).kept rfl

theorem teardownReq {op : ClkOp} {k : Clock} {done : State → State}
    (h : ∀ x, Answering s x → Leads ok i s (done x) n) : Leads ok i s (s.teardownReq op k done) n :=
  clkReq hs hans fun x hx _ => h _ (by split <;> exact hx.kept)

theorem awaitAnswer {k : Answer → State → State} (h : ∀ x, Answering s x → Leads ok i s (k d x) n) :
    Leads ok i s (s.awaitAnswer k) n := by
  rw [State.awaitAnswer_some hans]
  exact h _ (answering_tail hs hans)

theorem writeReg {c : CodecId} {a v : Nat} {cont : Bool → State → State}
    (h : ∀ e, Answering s (({ s with env := e } : State).afterWriteReg c a v d) →
      Leads ok i s (cont d.ok (({ s with env := e } : State).afterWriteReg c a v d)) n) :
    Leads ok i s (s.writeReg c a v cont) n := by
  rw [State.writeReg_some hans]
  exact h _ (answering_tail hs hans).kept

/-- A read-modify-write of a register whose shadow is known (R143). -/
theorem rmw {c : CodecId} {a clear set : Nat} {cont : Bool → State → State} (hknown : ok → s.shadow c a ≠ none)
    (h : ∀ e v, Answering s (({ s with env := e } : State).afterWriteReg c a v d) →
      Leads ok i s (cont d.ok (({ s with env := e } : State).afterWriteReg c a v d)) n) :
    Leads ok i s (s.rmw c a clear set cont) n := by
  cases hbase : s.shadow c a with
  | none =>
    rw [State.rmw_unknown hbase]
    exact raise (fun hok => hknown hok hbase) _ _ _
  | some base =>
    rw [State.rmw, hbase]
    exact writeReg hs hans fun e => h e _

include hd

theorem startReq {op : ClkOp} {k : Clock} {code : Code} {onOk : State → State}
    (h : ∀ x, Answering s x → x.eng = s.eng → Leads ok i s (onOk x) n) :
    Leads ok i s (s.startReq op k code onOk) n :=
  clkReq hs hans fun x hx heng => ifThenElse (fun _ => h x hx heng) fun hn => raise (mt hd hn) _ _ _

/-- A read whose answer is `ok` succeeds, whatever codec is plugged in (R61). -/
theorem readReg {c : CodecId} {a : Nat} {cont : Nat → State → State}
    (h : ∀ v x, Answering s x → Leads ok i s (cont v x) n) : Leads ok i s (s.readReg c a cont) n := by
  rw [State.readReg_some hans]
  exact ifThenElse (fun _ => h _ _ (answering_tail hs hans).kept)
    fun hn => raise (fun hok => hn (by simp [readOk, hd hok])) _ _ _

end Requests

end Leads

/-! ## The bodies -/

/-- A state in the body of command i, its next answer d at hand; where `ok` holds, the command can end well. -/
structure InRun (ok : Prop) (i : Instr) (s : State) (d : Answer) (rest : List (Option Answer)) : Prop where
  busy  : s.eng.busy = true
  phase : s.position.phase = .body
  hans  : s.env.answers = some d :: rest
  hd    : ok → d.ok = true
  ready : ok → bodyReady i s s.position.elem

section Bodies

variable {d : Answer} {rest : List (Option Answer)}

theorem InRun.answering (h : InRun ok i s d rest) : Answering s s := ⟨rfl, h.busy, h.phase, rfl, rfl, .inl rfl⟩

/-- In its body a command without guard loops runs its body. -/
theorem leads_byPhase {checks body : State → State} (h : s.byPhase checks body = .next t)
    (hphase : s.position.phase = .body) {n : Nat} (hbody : Leads ok i s (body s) n) : Leads ok i s t n := by
  rw [State.byPhase_eq, hphase, Host.Outcome.next.injEq] at h
  exact h ▸ hbody

/-- In its body a command with guard loops runs its body. -/
theorem leads_byGuards {first : Option State} {gs : List GuardCheck} {m : Nat} {body : State → State}
    (h : s.byGuards first gs m body = .next t) (hphase : s.position.phase = .body) {n : Nat}
    (hbody : Leads ok i s (body s) n) : Leads ok i s t n := by
  rw [State.byGuards_eq, hphase, Host.Outcome.next.injEq] at h
  exact h ▸ hbody

theorem execPrepareAll_leads {g : Group} (hr : InRun ok (.prepareAll g) s d rest)
    (h : exec (.prepareAll g) s = .next t) : Leads ok (.prepareAll g) s t (stepsLeft (.prepareAll g) s) := by
  have hs := hr.answering
  simp only [exec, execPrepareAll] at h
  exact leads_byPhase h hr.phase (.atElem fun k _ => .ifThenElse (fun _ => .nextElem hs (fun _ => trivial) .finish)
    fun _ => .startReq hs hr.hans hr.hd fun _ hx _ => .nextElem hx.kept (fun _ => trivial) .finish)

theorem execEnableAll_leads {g : Group} (hr : InRun ok (.enableAll g) s d rest)
    (h : exec (.enableAll g) s = .next t) : Leads ok (.enableAll g) s t (stepsLeft (.enableAll g) s) := by
  have hs := hr.answering
  simp only [exec, execEnableAll] at h
  exact leads_byGuards h hr.phase (.atElem fun k _ => .ifThenElse (fun _ => .nextElem hs (fun _ => trivial) .finish)
    fun _ => .startReq hs hr.hans hr.hd fun _ hx _ => .nextElem hx.kept (fun _ => trivial) .finish)

theorem execDisableAll_leads {g : Group} (hr : InRun ok (.disableAll g) s d rest)
    (h : exec (.disableAll g) s = .next t) : Leads ok (.disableAll g) s t (stepsLeft (.disableAll g) s) := by
  have hs := hr.answering
  simp only [exec, execDisableAll, List.length_reverse] at h
  refine leads_byPhase h hr.phase (.atElem fun k _ => .ifThenElse (fun _ => .teardownReq hs hr.hans fun x hx => ?_)
    fun _ => .nextElem hs (fun _ => trivial) .finish)
  refine .nextElem (Answering.kept (x := if x.position.up then x.flagGlitch else x) ?_) (fun _ => trivial) .finish
  split <;> exact hx.kept

theorem execUnprepareAll_leads {g : Group} (hr : InRun ok (.unprepareAll g) s d rest)
    (h : exec (.unprepareAll g) s = .next t) : Leads ok (.unprepareAll g) s t (stepsLeft (.unprepareAll g) s) := by
  have hs := hr.answering
  simp only [exec, execUnprepareAll, List.length_reverse] at h
  exact leads_byGuards h hr.phase (.atElem fun k _ => .ifThenElse
    (fun _ => .teardownReq hs hr.hans fun _ hx => .nextElem hx.kept (fun _ => trivial) .finish)
    fun _ => .nextElem hs (fun _ => trivial) .finish)

/-- The rate of SELECT_MASTER stays the operand latched at issue (R121). -/
theorem execSelectMaster_leads (hr : InRun ok .selectMaster s d rest) (h : exec .selectMaster s = .next t) :
    Leads ok .selectMaster s t (stepsLeft .selectMaster s) := by
  have hs := hr.answering
  have hrate {x : State} (heng : x.eng = s.eng) (hok : ok) : bodyReady .selectMaster x s.position.elem := by
    rw [bodyReady, heng]
    exact hr.ready hok
  simp only [exec, execSelectMaster] at h
  refine leads_byPhase h hr.phase ?_
  split
  · next hnone => exact .raise (fun hok => by simpa [bodyReady, isMasterRate, hnone] using hr.ready hok) _ _ _
  · next hreq =>
    exact .clkReq hs hr.hans fun x hx heng => .ifThenElse
      (fun _ => .nextReq hx.kept (by simp [hreq, elemSteps]) (hrate heng)) fun hn => .raise (mt hr.hd hn) _ _ _
  · next hreq =>
    exact .startReq hs hr.hans hr.hd fun x hx heng => .nextReq hx.kept (by simp [hreq, elemSteps]) (hrate heng)
  · next hreq =>
    exact .startReq hs hr.hans hr.hd fun x hx heng => .nextReq hx.kept (by simp [hreq, elemSteps]) (hrate heng)
  · exact .awaitAnswer hs hr.hans fun _ _ => .finish

theorem execReleaseMaster_leads (hr : InRun ok .releaseMaster s d rest) (h : exec .releaseMaster s = .next t) :
    Leads ok .releaseMaster s t (stepsLeft .releaseMaster s) := by
  have hs := hr.answering
  simp only [exec, execReleaseMaster] at h
  refine leads_byPhase h hr.phase ?_
  split
  · next hreq =>
    refine .ifThenElse (fun _ => .teardownReq hs hr.hans fun x hx => ?_)
      fun _ => .nextReq hs (by simp [hreq, elemSteps]) fun _ => trivial
    refine .nextReq (Answering.kept (x := if x.position.up then x.flagGlitch else x) ?_) (by simp [hreq, elemSteps])
      fun _ => trivial
    split <;> exact hx.kept
  · exact .ifThenElse (fun _ => .teardownReq hs hr.hans fun _ _ => .finish) fun _ => .finish

theorem execApplyStartup_leads {cs : CodecSet} (hr : InRun ok (.applyStartup cs) s d rest)
    (h : exec (.applyStartup cs) s = .next t) : Leads ok (.applyStartup cs) s t (stepsLeft (.applyStartup cs) s) := by
  have hs := hr.answering
  simp only [exec, execApplyStartup] at h
  refine leads_byGuards h hr.phase (.atElem fun c _ => ?_)
  split
  · next hreq => exact .nextReq hs.kept (by rw [hreq, elemSteps]; omega) fun _ => trivial
  · next r hreq =>
    split
    · exact .nextElem hs (fun _ => trivial) .finish
    · refine .writeReg hs hr.hans fun _ hx => .ifThenElse (fun _ => .ifThenElse (fun hlt => ?_)
        fun _ => .nextElem hx (fun _ => trivial) .finish) fun hn => .raise (mt hr.hd hn) _ _ _
      have hlt : r + 1 < s.cfg.startupBatch.length := hlt
      exact .nextReq hx (by rw [hreq, elemSteps]; omega) fun _ => trivial

theorem execSetFmtSysclk_leads {cs : CodecSet} (hr : InRun ok (.setFmtSysclk cs) s d rest)
    (h : exec (.setFmtSysclk cs) s = .next t) : Leads ok (.setFmtSysclk cs) s t (stepsLeft (.setFmtSysclk cs) s) := by
  have hs := hr.answering
  simp only [exec, execSetFmtSysclk] at h
  exact leads_byGuards h hr.phase (.atElem fun c hc => .rmw hs hr.hans
    (fun hok => hr.ready hok c (mem_drop_of_currentCodec hc)) fun e v hx => .ifThenElse
      (fun _ => .nextElem hx.kept
        (fun hok => shadows_ahead hc rfl (fun c' hne => by simp [hne]) (hr.ready hok)) .finish)
      fun hn => .raise (mt hr.hd hn) _ _ _)

theorem execPowerUp_leads {cs : CodecSet} (hr : InRun ok (.powerUp cs) s d rest)
    (h : exec (.powerUp cs) s = .next t) : Leads ok (.powerUp cs) s t (stepsLeft (.powerUp cs) s) := by
  have hs := hr.answering
  simp only [exec, execPowerUp] at h
  exact leads_byGuards h hr.phase (.atElem fun c hc => .rmw hs hr.hans
    (fun hok => hr.ready hok c (mem_drop_of_currentCodec hc)) fun e v hx => .ifThenElse
      (fun _ => .nextElem hx (fun hok => shadows_ahead hc rfl (fun c' hne => by simp [hne]) (hr.ready hok)) .finish)
      fun hn => .raise (mt hr.hd hn) _ _ _)

theorem execWriteSynced_leads {cs : CodecSet} {q : Control} (hr : InRun ok (.writeSynced cs q) s d rest)
    (h : exec (.writeSynced cs q) s = .next t) :
    Leads ok (.writeSynced cs q) s t (stepsLeft (.writeSynced cs q) s) := by
  have hs := hr.answering
  simp only [exec, execWriteSynced] at h
  exact leads_byPhase h hr.phase (.atElem fun c hc => .rmw hs hr.hans
    (fun hok => hr.ready hok c (mem_drop_of_currentCodec hc)) fun e v hx => .ifThenElse
      (fun _ => .nextElem hx (fun hok => shadows_ahead hc rfl (fun c' hne => by simp [hne]) (hr.ready hok)) .finish)
      fun hn => .raise (mt hr.hd hn) _ _ _)

/-- Where every write answers `ok`, POWER_DOWN notes no failure (R190). -/
theorem execPowerDown_leads {cs : CodecSet} (hr : InRun ok (.powerDown cs) s d rest)
    (h : exec (.powerDown cs) s = .next t) : Leads ok (.powerDown cs) s t (stepsLeft (.powerDown cs) s) := by
  simp only [exec, execPowerDown] at h
  refine leads_byPhase h hr.phase (.atElem fun c _ => .writeReg hr.answering hr.hans fun e hx => ?_)
  have hend {x : State} (hx : Answering s x) (hfirst : ok → x.position.first = none) :
      Leads ok (.powerDown cs) s (x.nextElem (codecList cs).length State.endPowerDown)
        (stepsLeft (.powerDown cs) s) :=
    .nextElem hx hfirst (State.endPowerDown_elim (P := (Leads ok (.powerDown cs) s · _))
      (fun c hc => .raise (fun hok => nomatch hc.symm.trans (hfirst hok)) _ _ _) fun _ => .finish)
  cases hdok : d.ok with
  | true => exact hend hx.kept fun hok => hr.ready hok
  | false =>
    exact hend (hx.note fun p => { p with first := p.first.or (some c) }).kept
      fun hok => nomatch hdok.symm.trans (hr.hd hok)

theorem execSetVolume_leads {c : CodecId} {ch : Channel} (hr : InRun ok (.setVolume c ch) s d rest)
    (h : exec (.setVolume c ch) s = .next t) : Leads ok (.setVolume c ch) s t (stepsLeft (.setVolume c ch) s) := by
  have hs := hr.answering
  simp only [exec, execSetVolume] at h
  refine leads_byPhase h hr.phase ?_
  split
  · next hreq =>
    exact .writeReg hs hr.hans fun e hx => .ifThenElse
      (fun _ => .nextReq hx (by simp [hreq, elemSteps]) fun _ => trivial) fun hn => .raise (mt hr.hd hn) _ _ _
  · exact .writeReg hs hr.hans fun e hx => .ifThenElse (fun _ => .finish) fun hn => .raise (mt hr.hd hn) _ _ _

theorem execGetVolume_leads {c : CodecId} {ch : Channel} (hr : InRun ok (.getVolume c ch) s d rest)
    (h : exec (.getVolume c ch) s = .next t) : Leads ok (.getVolume c ch) s t (stepsLeft (.getVolume c ch) s) := by
  have hs := hr.answering
  simp only [exec, execGetVolume] at h
  refine leads_byPhase h hr.phase ?_
  split
  · next hreq =>
    exact .readReg hs hr.hans hr.hd fun v x hx =>
      .nextReq (hx.note fun p => { p with vals := [v] }) (by simp [hreq, elemSteps]) fun _ => trivial
  · exact .readReg hs hr.hans hr.hd fun v x hx => .finish

/-- Only a READ_SYNCED of both codecs has a comparison to make, that of the right one (R193). -/
theorem compared_is_right {cs : CodecSet} {vals : List Nat} {j v : Nat} {c : CodecId}
    (h : ((codecList cs).zip vals)[j + 1]? = some (c, v)) : cs = .lr ∧ c = .right := by
  obtain ⟨hc, -⟩ := List.getElem?_zip_eq_some.mp h
  cases cs with
  | l | r => exact nomatch hc
  | lr =>
    cases j with
    | zero => exact ⟨rfl, (Option.some.inj hc).symm⟩
    | succ j => exact nomatch hc

theorem execReadSynced_leads {cs : CodecSet} {q : Control} (hr : InRun ok (.readSynced cs q) s d rest)
    (h : exec (.readSynced cs q) s = .next t) :
    Leads ok (.readSynced cs q) s t (stepsLeft (.readSynced cs q) s) := by
  have hs := hr.answering
  simp only [exec, execReadSynced] at h
  refine leads_byPhase h hr.phase ?_
  split
  · exact .readReg hs hr.hans hr.hd fun v x hx => .nextElem
      (hx.note fun p => { p with vals := p.vals ++ [enumField x.cfg q v] }) (fun _ => trivial) .finish
  · refine State.compareSynced_elim (P := (Leads ok (.readSynced cs q) s · _)) (fun c v hcv _ => ?_)
      (fun _ _ _ _ => .nextElem hs (fun _ => trivial) .finish) fun _ => .finish
    obtain ⟨rfl, rfl⟩ := compared_is_right hcv
    exact .ended rfl fun _ => .inr ⟨q, rfl, s.raise_endedWith _ _ _⟩

/-- One step of the body of any command. -/
theorem exec_leads (hr : InRun ok i s d rest) (h : exec i s = .next t) : Leads ok i s t (stepsLeft i s) := by
  cases i with
  | prepareAll g => exact execPrepareAll_leads hr h
  | enableAll g => exact execEnableAll_leads hr h
  | disableAll g => exact execDisableAll_leads hr h
  | unprepareAll g => exact execUnprepareAll_leads hr h
  | selectMaster => exact execSelectMaster_leads hr h
  | releaseMaster => exact execReleaseMaster_leads hr h
  | applyStartup cs => exact execApplyStartup_leads hr h
  | setFmtSysclk cs => exact execSetFmtSysclk_leads hr h
  | powerUp cs => exact execPowerUp_leads hr h
  | powerDown cs => exact execPowerDown_leads hr h
  | setVolume c ch => exact execSetVolume_leads hr h
  | getVolume c ch => exact execGetVolume_leads hr h
  | readSynced cs q => exact execReadSynced_leads hr h
  | writeSynced cs q => exact execWriteSynced_leads hr h

end Bodies

/-! ## The run of a body -/

/-- The next n answers of the agents come, and where `ok` holds every one is `ok`. -/
def answersGood (ok : Prop) (s : State) (n : Nat) : Prop :=
  n ≤ s.env.answers.length ∧ ∀ a ∈ s.env.answers, ∃ d : Answer, a = some d ∧ (ok → d.ok = true)

theorem answersGood.of_step {n m : Nat} (h : answersGood ok s n) (hm : m + 1 ≤ n)
    (ht : t.env.answers = s.env.answers ∨ t.env.answers = s.env.answers.tail) : answersGood ok t m := by
  obtain ⟨hlen, hall⟩ := h
  rcases ht with ht | ht
  · exact ⟨by rw [ht]; omega, by rw [ht]; exact hall⟩
  · refine ⟨by rw [ht, List.length_tail]; omega, fun a ha => hall a ?_⟩
    rw [ht] at ha
    exact List.mem_of_mem_tail ha

/-- What a command has come to when it has ended. -/
def hasEnded (ok : Prop) (i : Instr) (cfg : Config) (t : State) : Prop :=
  t.eng.busy = false ∧ (ok → endsWell i cfg t)

/-- From a state of its body a command ends within the steps that are left of it. -/
theorem run_body (n : Nat) (hbusy : s.eng.busy = true) (hphase : s.position.phase = .body) (hleft : stepsLeft i s ≤ n)
    (hgood : answersGood ok s n) (hready : ok → bodyReady i s s.position.elem) :
    completesIn n i s (hasEnded ok i s.cfg) := by
  induction n generalizing s with
  | zero => exact absurd hleft (Nat.not_succ_le_zero _)
  | succ n ih =>
    obtain ⟨a, rest, hans⟩ := List.exists_cons_of_length_pos (Nat.lt_of_lt_of_le (Nat.succ_pos n) hgood.1)
    obtain ⟨d, rfl, hd⟩ := hgood.2 a (by rw [hans]; exact List.mem_cons_self ..)
    obtain ⟨t, ht⟩ := exec_isNext i s
    cases exec_leads ⟨hbusy, hphase, hans, hd, hready⟩ ht with
    | ended idle well => exact ⟨t, by rw [runExec_step hbusy ht, runExec_done idle], idle, well⟩
    | body busy phase left cfg answers ready =>
      obtain ⟨u, hu, hended⟩ := ih busy phase (by omega) (hgood.of_step (Nat.le_refl _) answers) ready
      exact ⟨u, by rw [runExec_step hbusy ht, hu], cfg ▸ hended⟩

/-! ## From the issue to the body -/

/-- From its issue at s, past its guard loops, command i has ended or is in its body, every answer still to come. -/
def Starts (ok : Prop) (i : Instr) (s : State) : Prop :=
  ∃ t, runExec i (1 + (guardsOf s i).length) s = .next t ∧
    (hasEnded ok i s.cfg t ∨
      (t.eng.busy = true ∧ t.position.phase = .body ∧ t.cfg = s.cfg ∧ t.env = s.env ∧
        stepsLeft i t ≤ bodyElems s.cfg i * elemSteps s.cfg i ∧ (ok → bodyReady i t t.position.elem)))

/-- At the first request of the first element all steps of the body are left. -/
theorem stepsLeft_le (hcfg : t.cfg = s.cfg) (helem : t.position.elem = 0) (hpos : 0 < bodyElems s.cfg i) :
    stepsLeft i t ≤ bodyElems s.cfg i * elemSteps s.cfg i := by
  obtain ⟨m, hm⟩ : ∃ m, bodyElems s.cfg i = m + 1 := ⟨bodyElems s.cfg i - 1, by omega⟩
  have hsteps := elemSteps_pos s.cfg i
  rw [stepsLeft, hcfg, helem, hm, Nat.succ_mul]
  simp only [Nat.add_sub_cancel, Nat.sub_zero]
  omega

/-- A first step that ends the command where the run need not end well. -/
theorem Starts.of_refused (h : s.atStart) (hn : ¬ ok) {code : Code} {id addr : Nat}
    (hexec : exec i s = .next (s.raise code id addr)) : Starts ok i s :=
  ⟨_, by rw [Nat.add_comm, runExec_step h.1 hexec, runExec_done rfl], .inl ⟨rfl, fun hok => absurd hok hn⟩⟩

/-- A command without guard loops enters its body at its first step. -/
theorem Starts.of_enterBody (h : s.atStart) {n : Nat} (hexec : exec i s = .next (x.enterBody n))
    (hguards : guardsOf s i = []) (hcfg : x.cfg = s.cfg) (hbusy : x.eng.busy = true) (henv : x.env = s.env)
    (hn : n ≠ 0 → 0 < bodyElems s.cfg i) (hready : ok → bodyReady i x 0) : Starts ok i s := by
  refine ⟨x.enterBody n, by rw [hguards, List.length_nil, Nat.add_zero, runExec_step h.1 hexec, runExec], ?_⟩
  rw [State.enterBody]
  split
  · exact .inl ⟨rfl, fun _ => .inl (x.raise_endedWith _ _ _)⟩
  · next h0 =>
    exact .inr ⟨hbusy, rfl, hcfg, henv, stepsLeft_le hcfg rfl (hn h0),
      fun hok => bodyReady_congr (hready hok) rfl (fun c => State.goTo_codec x _ c) rfl rfl⟩

/-- A command with guard loops passes them and enters its body, or is refused. -/
theorem Starts.of_guards {n : Nat} (hg : HasGuards i s (guardsOf s i) n) (hn : n = bodyElems s.cfg i)
    (hpass : ok → ∀ x ∈ guardsOf s i, x.fails = false)
    (hready : ok → ∀ t, onlyStatusChanged s t → bodyReady i t 0) : Starts ok i s := by
  by_cases hfails : ∃ x ∈ guardsOf s i, x.fails = true
  · obtain ⟨t, ht, hidle, -⟩ := hg.refusedWithin hfails (Nat.le_refl _)
    obtain ⟨x, hx, hfail⟩ := hfails
    exact ⟨t, ht, .inl ⟨hidle, fun hok => nomatch (hpass hok x hx).symm.trans hfail⟩⟩
  · have hall : ∀ x ∈ guardsOf s i, x.fails = false := fun x hx => by
      simpa using fun hfail => hfails ⟨x, hx, hfail⟩
    obtain ⟨-, t, ht, hentered, honly⟩ := hg.passes hall
    refine ⟨t, ht, ?_⟩
    obtain ⟨hcfg, -, -, -, -, -, -, henv, -⟩ := honly.kept
    unfold entered at hentered
    split at hentered
    · exact .inl ⟨hentered.1, fun _ => .inl hentered⟩
    · next h0 =>
      obtain ⟨⟨hbusy, -⟩, q, hq, hphase, helem, -⟩ := hentered
      have hp : t.position = q := State.position_of_step hq
      have he : t.position.elem = 0 := hp ▸ helem
      exact .inr ⟨hbusy.trans hg.atStart.1, hp ▸ hphase, hcfg, henv, stepsLeft_le hcfg he (by omega),
        fun hok => he ▸ hready hok t honly⟩

/-- The checks of a command are those of its guard loops, and more (R125, R132 to R136). -/
theorem checksPass.guards (h : checksPass i s) : ∀ x ∈ guardsOf s i, x.fails = false := by
  cases i with
  | enableAll g =>
    obtain ⟨hsysclk, hprepared⟩ := h
    refine List.forall_mem_append.mpr ⟨List.forall_mem_map.mpr fun c hc => ?_, List.forall_mem_map.mpr fun k hk => ?_⟩
    · simp [hsysclk c hc]
    · simp [hprepared k hk]
  | unprepareAll g => exact List.forall_mem_map.mpr fun k hk => h k (List.mem_reverse.mp hk)
  | applyStartup cs => exact List.forall_mem_map.mpr fun c hc => by simpa using h c hc
  | setFmtSysclk cs =>
    obtain ⟨-, -, hcodecs⟩ := h
    exact List.forall_mem_map.mpr fun c hc => by simp [(hcodecs c hc).1]
  | powerUp cs =>
    obtain ⟨-, hclocks, hcodecs⟩ := h
    refine List.forall_mem_append.mpr ⟨List.forall_mem_map.mpr fun k hk => ?_, List.forall_mem_map.mpr fun c hc => ?_⟩
    · simp [hclocks k hk]
    · simp [(hcodecs c hc).1]
  | _ => exact fun _ hx => nomatch hx

/-- The shadows known at the issue are known past the guard loops. -/
theorem onlyStatusChanged.fmtctl_known (h : onlyStatusChanged s t) {c : CodecId}
    (hknown : s.shadow c s.cfg.addrFmtctl ≠ none) : t.shadow c t.cfg.addrFmtctl ≠ none := by
  obtain ⟨hcfg, -, -, hcodec, -⟩ := h.kept
  rwa [State.shadow_congr hcfg c (by rw [hcodec]), hcfg]

theorem execSelectMaster_starts (h : s.atStart) (hchecks : ok → checksPass .selectMaster s) :
    Starts ok .selectMaster s := by
  cases hsrc : masterSource s.eng.cur.arg0 with
  | none =>
    exact .of_refused h (fun hok => by simpa [isMasterRate, hsrc] using (hchecks hok).1)
      (code := .unsupportedMasterRate) (id := 0) (addr := 0)
      (by rw [exec, execSelectMaster, State.byPhase_start _ _ h, hsrc])
  | some src =>
    by_cases hgate : s.clk.gatePrepared = true
    · exact .of_refused h (fun hok => nomatch hgate.symm.trans (hchecks hok).2)
        (code := .sequenceError) (id := Clock.gate.id) (addr := Guard.masterSelected.number)
        (by rw [exec, execSelectMaster, State.byPhase_start _ _ h, hsrc]; simp [hgate, State.refuse])
    · exact .of_enterBody (x := s) (n := 1) h
        (by rw [exec, execSelectMaster, State.byPhase_start _ _ h, hsrc]; simp [hgate]) rfl rfl h.1 rfl
        (fun _ => Nat.one_pos) fun hok => (hchecks hok).1

theorem execSetFmtSysclk_starts {cs : CodecSet} (h : s.atStart) (hchecks : ok → checksPass (.setFmtSysclk cs) s) :
    Starts ok (.setFmtSysclk cs) s := by
  by_cases hrate : isMasterRate s.eng.cur.arg0 = true
  · by_cases hmask : withinMask s.eng.cur.arg1.toNat s.cfg.fmtMask = true
    · exact .of_guards (hasGuards_setFmtSysclk cs h hrate hmask) rfl (fun hok => (hchecks hok).guards)
        fun hok t ht c hc => ht.fmtctl_known ((hchecks hok).2.2 c hc).2
    · exact .of_refused h (fun hok => hmask (hchecks hok).2.1) (code := .invalidOperand) (id := 0) (addr := 0)
        (by rw [exec, execSetFmtSysclk, State.byGuards_start _ _ _ _ h]; simp [hrate, hmask])
  · exact .of_refused h (fun hok => hrate (hchecks hok).1) (code := .invalidOperand) (id := 0) (addr := 0)
      (by rw [exec, execSetFmtSysclk, State.byGuards_start _ _ _ _ h]; simp [hrate])

theorem execPowerUp_starts {cs : CodecSet} (h : s.atStart) (hchecks : ok → checksPass (.powerUp cs) s) :
    Starts ok (.powerUp cs) s := by
  by_cases hm : s.clk.masterClockEnabled = true
  · exact .of_guards (hasGuards_powerUp cs h hm) rfl (fun hok => (hchecks hok).guards)
      fun hok t ht c hc => ht.fmtctl_known ((hchecks hok).2.2 c hc).2
  · exact .of_refused h (fun hok => hm (hchecks hok).1) (code := .sequenceError) (id := Clock.gate.id)
      (addr := Guard.masterNotReady.number)
      (by rw [exec, execPowerUp, State.byGuards_start _ _ _ _ h]; simp [State.masterReady, hm, State.refuse])

theorem execSetVolume_starts {c : CodecId} {ch : Channel} (h : s.atStart)
    (hchecks : ok → checksPass (.setVolume c ch) s) : Starts ok (.setVolume c ch) s := by
  by_cases hlegal : s.eng.cur.arg0.toNat ≤ volMax ∧ channelLegal s.cfg c ch = true
  · exact .of_enterBody (x := s) (n := 1) h
      (by rw [exec, execSetVolume, State.byPhase_start _ _ h]; simp [hlegal.1, hlegal.2]) rfl rfl h.1 rfl
      (fun _ => Nat.one_pos) fun _ => trivial
  · exact .of_refused h (fun hok => hlegal (hchecks hok)) (code := .invalidOperand) (id := 0) (addr := 0) (by
      rw [exec, execSetVolume, State.byPhase_start _ _ h]
      by_cases hvol : s.eng.cur.arg0.toNat ≤ volMax
      · simp [mt (And.intro hvol) hlegal]
      · simp [Nat.lt_of_not_le hvol])

theorem execGetVolume_starts {c : CodecId} {ch : Channel} (h : s.atStart)
    (hchecks : ok → checksPass (.getVolume c ch) s) : Starts ok (.getVolume c ch) s := by
  by_cases hlegal : channelLegal s.cfg c ch = true
  · exact .of_enterBody (x := s) (n := 1) h
      (by rw [exec, execGetVolume, State.byPhase_start _ _ h]; simp [hlegal]) rfl rfl h.1 rfl
      (fun _ => Nat.one_pos) fun _ => trivial
  · exact .of_refused h (fun hok => hlegal (hchecks hok)) (code := .invalidOperand) (id := 0) (addr := 0)
      (by rw [exec, execGetVolume, State.byPhase_start _ _ h]; simp [hlegal])

theorem execWriteSynced_starts {cs : CodecSet} {q : Control} (h : s.atStart)
    (hchecks : ok → checksPass (.writeSynced cs q) s) : Starts ok (.writeSynced cs q) s := by
  by_cases hlegal : enumLegal q s.eng.cur.arg0.toNat = true
  · exact .of_enterBody (x := s) (n := (codecList cs).length) h
      (by rw [exec, execWriteSynced, State.byPhase_start _ _ h]; simp [hlegal]) rfl rfl h.1 rfl
      Nat.pos_of_ne_zero fun hok => (hchecks hok).2
  · exact .of_refused h (fun hok => hlegal (hchecks hok).1) (code := .invalidOperand) (id := 0) (addr := 0)
      (by rw [exec, execWriteSynced, State.byPhase_start _ _ h]; simp [hlegal])

/-- From its issue a command comes to its end or to its body. -/
theorem exec_starts (h : s.atStart) (hchecks : ok → checksPass i s) : Starts ok i s := by
  have hpass : ok → ∀ x ∈ guardsOf s i, x.fails = false := fun hok => (hchecks hok).guards
  cases i with
  | prepareAll g =>
    exact .of_enterBody (x := s) (n := (groupList s.cfg g).length) h
      (by rw [exec, execPrepareAll, State.byPhase_start _ _ h]) rfl rfl h.1 rfl Nat.pos_of_ne_zero fun _ => trivial
  | enableAll g => exact .of_guards (hasGuards_enableAll g h) rfl hpass fun _ _ _ => trivial
  | disableAll g =>
    exact .of_enterBody (x := s.goTo fun p => { p with up := s.anyUp }) (n := (groupList s.cfg g).length) h
      (by rw [exec, execDisableAll, State.byPhase_start _ _ h, List.length_reverse]) rfl rfl h.1 rfl
      Nat.pos_of_ne_zero fun _ => trivial
  | unprepareAll g =>
    exact .of_guards (hasGuards_unprepareAll g h) (List.length_reverse ..) hpass fun _ _ _ => trivial
  | selectMaster => exact execSelectMaster_starts h hchecks
  | releaseMaster =>
    exact .of_enterBody (x := (s.goTo fun p => { p with up := s.anyUp }).onClk fun c =>
      { c with masterClockEnabled := false }) (n := 1) h
      (by rw [exec, execReleaseMaster, State.byPhase_start _ _ h]) rfl rfl h.1 rfl (fun _ => Nat.one_pos)
      fun _ => trivial
  | applyStartup cs => exact .of_guards (hasGuards_applyStartup cs h) rfl hpass fun _ _ _ => trivial
  | setFmtSysclk cs => exact execSetFmtSysclk_starts h hchecks
  | powerUp cs => exact execPowerUp_starts h hchecks
  | powerDown cs =>
    exact .of_enterBody (x := s) (n := (codecList cs).length) h
      (by rw [exec, execPowerDown, State.byPhase_start _ _ h]) rfl rfl h.1 rfl Nat.pos_of_ne_zero
      fun _ => congrArg Position.first h.position
  | setVolume c ch => exact execSetVolume_starts h hchecks
  | getVolume c ch => exact execGetVolume_starts h hchecks
  | readSynced cs q =>
    exact .of_enterBody (x := s) (n := (codecList cs).length) h
      (by rw [exec, execReadSynced, State.byPhase_start _ _ h]) rfl rfl h.1 rfl
      (fun hn => by rw [bodyElems]; omega) fun _ => trivial
  | writeSynced cs q => exact execWriteSynced_starts h hchecks

/-! ## A whole run -/

/-- A command that has ended in a run stands at no position. -/
theorem runExec_step_none {n : Nat} (hbusy : s.eng.busy = true) (h : runExec i n s = .next t)
    (hidle : t.eng.busy = false) : t.eng.step = none := by
  induction n generalizing s with
  | zero =>
    rw [runExec, Host.Outcome.next.injEq] at h
    subst h
    exact nomatch hbusy.symm.trans hidle
  | succ n ih =>
    obtain ⟨x, hx⟩ := exec_isNext i s
    rw [runExec_step hbusy hx] at h
    rcases (exec_shape hx).outcome with ⟨e, rfl⟩ | ⟨⟨hb, -⟩, -⟩ | ⟨_, _, _, hxidle, hnone, -⟩
    · exact ih (s := { s with env := e }) hbusy h
    · exact ih (hb.trans hbusy) h
    · rw [runExec_done hxidle, Host.Outcome.next.injEq] at h
      exact h ▸ hnone

/-- A command whose requests are answered ends within its bound. -/
theorem run_ends (h : s.atStart) (hgood : answersGood ok s (stepBound s.cfg i)) (hchecks : ok → checksPass i s) :
    completesIn (stepBound s.cfg i) i s (hasEnded ok i s.cfg) := by
  obtain ⟨t, ht, hended | ⟨hbusy, hphase, hcfg, henv, hleft, hready⟩⟩ := exec_starts h hchecks
  · exact ⟨t, by rw [stepBound_eq, runExec_add ht, runExec_done hended.1], hended⟩
  · obtain ⟨hlen, hall⟩ := hgood
    have hlen' : bodyElems s.cfg i * elemSteps s.cfg i ≤ s.env.answers.length := by
      rw [stepBound_eq] at hlen
      omega
    obtain ⟨u, hu, hended⟩ := run_body _ hbusy hphase hleft ⟨henv ▸ hlen', henv ▸ hall⟩ hready
    exact ⟨u, by rw [stepBound_eq, runExec_add ht, hu], hcfg ▸ hended⟩

/-- Settles O45: the guard loops take a step per guard (`exec_starts`), and every answered step of a body leaves fewer
(`exec_leads`), keeping what an end OK needs where the answers are `ok`. -/
theorem everyCommandEndsWhenAnswered : Obligations.EveryCommandEndsWhenAnswered := by
  unfold Obligations.EveryCommandEndsWhenAnswered
  intro i s h
  refine ⟨fun ⟨hlen, hcome⟩ => ?_, fun ⟨hlen, hok⟩ hchecks => ?_⟩
  · have hgood : answersGood False s (stepBound s.cfg i) := ⟨hlen, fun a ha => by
      obtain ⟨d, rfl⟩ := Option.ne_none_iff_exists'.mp (hcome a ha)
      exact ⟨d, rfl, nofun⟩⟩
    obtain ⟨t, ht, hidle, -⟩ := run_ends h hgood nofun
    exact ⟨t, ht, hidle, runExec_step_none h.1 ht hidle⟩
  · have hgood : answersGood True s (stepBound s.cfg i) := ⟨hlen, fun a ha => by
      obtain ⟨d, hd, hdok⟩ := hok a ha
      exact ⟨d, hd, fun _ => hdok⟩⟩
    obtain ⟨t, ht, -, hwell⟩ := run_ends h hgood fun _ => hchecks
    exact ⟨t, ht, hwell trivial⟩

end Sys2Proof.Machine
end

section
/-! PROOFS. The group commands (R151 to R154), step by step: the element that starts a clock and the element that stops
one, each said once; the guard loops come from `HasGuards`. -/
namespace Sys2Proof.Machine

variable {s : State} {g : Group}

/-! ## The two flags of a clock (R24) -/

/-- One of the two flags of a consumer clock (R24). -/
inductive LifecycleFlag where
  | prepared | enabled

/-- The value of the flag. -/
def LifecycleFlag.get : LifecycleFlag → Lifecycle → Bool
  | .prepared, x => x.prepared
  | .enabled, x => x.enabled

/-- The flags of a clock with the flag at b. -/
def LifecycleFlag.set : LifecycleFlag → Bool → Lifecycle → Lifecycle
  | .prepared, b, x => { x with prepared := b }
  | .enabled, b, x => { x with enabled := b }

/-- The flag of clock k. -/
def ClockState.flag (c : ClockState) (f : LifecycleFlag) (k : Consumer) : Bool := f.get (c.flags k)

/-- The clocks with the flag of clock k at b. -/
def ClockState.setFlag (c : ClockState) (f : LifecycleFlag) (k : Consumer) (b : Bool) : ClockState :=
  c.setFlags k (f.set b (c.flags k))

@[simp] theorem LifecycleFlag.get_set (f : LifecycleFlag) (b : Bool) (x : Lifecycle) : f.get (f.set b x) = b := by
  cases f <;> rfl

theorem LifecycleFlag.set_get {f : LifecycleFlag} {b : Bool} {x : Lifecycle} (h : f.get x = b) : f.set b x = x := by
  subst h
  cases f <;> rfl

@[simp] theorem LifecycleFlag.set_set (f : LifecycleFlag) (b b' : Bool) (x : Lifecycle) :
    f.set b (f.set b' x) = f.set b x := by
  cases f <;> rfl

theorem ClockState.setFlag_flags (c : ClockState) (f : LifecycleFlag) (k k' : Consumer) (b : Bool) :
    (c.setFlag f k b).flags k' = if k' = k then f.set b (c.flags k) else c.flags k' :=
  ClockState.flags_setFlags ..

@[simp] theorem ClockState.flag_setFlag (c : ClockState) (f : LifecycleFlag) (k k' : Consumer) (b : Bool) :
    (c.setFlag f k b).flag f k' = if k' = k then b else c.flag f k' := by
  rw [ClockState.flag, ClockState.setFlag_flags]
  split
  · exact LifecycleFlag.get_set ..
  · rfl

@[simp] theorem ClockState.setFlag_prepared (c : ClockState) (k : Consumer) (b : Bool) :
    c.setFlag .prepared k b = c.setPrepared k b := rfl
@[simp] theorem ClockState.setFlag_enabled (c : ClockState) (k : Consumer) (b : Bool) :
    c.setFlag .enabled k b = c.setEnabled k b := rfl
@[simp] theorem ClockState.flag_prepared (c : ClockState) (k : Consumer) :
    c.flag .prepared k = c.prepared k := rfl
@[simp] theorem ClockState.flag_enabled (c : ClockState) (k : Consumer) :
    c.flag .enabled k = c.enabled k := rfl

/-! ## One element -/

/-- The state after a clock request with its answer: the answer is used up and the request recorded (R84). -/
def State.clkAnswered (s : State) (op : ClkOp) (k : Clock) (ok : Bool) (rest : List (Option Answer)) : State :=
  ({ s with env := { s.env with answers := rest } } : State).record (.clkReq op k ok)

@[simp] theorem State.clkAnswered_history (s : State) (op : ClkOp) (k : Clock) (ok : Bool)
    (rest : List (Option Answer)) : (s.clkAnswered op k ok rest).history = s.history ++ [.clkReq op k ok] := rfl
@[simp] theorem State.clkAnswered_clk (s : State) (op : ClkOp) (k : Clock) (ok : Bool)
    (rest : List (Option Answer)) : (s.clkAnswered op k ok rest).clk = s.clk := rfl
@[simp] theorem State.clkAnswered_win (s : State) (op : ClkOp) (k : Clock) (ok : Bool)
    (rest : List (Option Answer)) : (s.clkAnswered op k ok rest).win = s.win := rfl
@[simp] theorem State.clkAnswered_answers (s : State) (op : ClkOp) (k : Clock) (ok : Bool)
    (rest : List (Option Answer)) : (s.clkAnswered op k ok rest).env.answers = rest := rfl

/-- The state after a teardown request with its answer: TEARDOWN_FAULT is set on `fail` (R141). -/
def State.tornDown (s : State) (op : ClkOp) (k : Clock) (ok : Bool) (rest : List (Option Answer)) : State :=
  if ok then s.clkAnswered op k ok rest else (s.clkAnswered op k ok rest).flagTeardown

@[simp] theorem State.tornDown_history (s : State) (op : ClkOp) (k : Clock) (ok : Bool)
    (rest : List (Option Answer)) : (s.tornDown op k ok rest).history = s.history ++ [.clkReq op k ok] := by
  cases ok <;> rfl
@[simp] theorem State.tornDown_clk (s : State) (op : ClkOp) (k : Clock) (ok : Bool)
    (rest : List (Option Answer)) : (s.tornDown op k ok rest).clk = s.clk := by cases ok <;> rfl
@[simp] theorem State.tornDown_position (s : State) (op : ClkOp) (k : Clock) (ok : Bool)
    (rest : List (Option Answer)) : (s.tornDown op k ok rest).position = s.position := by cases ok <;> rfl
@[simp] theorem State.tornDown_answers (s : State) (op : ClkOp) (k : Clock) (ok : Bool)
    (rest : List (Option Answer)) : (s.tornDown op k ok rest).env.answers = rest := by cases ok <;> rfl
@[simp] theorem State.tornDown_glitchRisk (s : State) (op : ClkOp) (k : Clock) (ok : Bool)
    (rest : List (Option Answer)) : (s.tornDown op k ok rest).win.glitchRisk = s.win.glitchRisk := by
  cases ok <;> rfl
@[simp] theorem State.tornDown_teardownFault (s : State) (op : ClkOp) (k : Clock) (ok : Bool)
    (rest : List (Option Answer)) :
    (s.tornDown op k ok rest).win.teardownFault = (s.win.teardownFault || !ok) := by
  cases ok <;> simp [State.tornDown]

theorem State.tornDown_stillBusy (s : State) (op : ClkOp) (k : Clock) (ok : Bool) (rest : List (Option Answer)) :
    stillBusy s (s.tornDown op k ok rest) := by
  cases ok <;> exact ⟨rfl, rfl, rfl, rfl⟩

theorem stillBusy.trans {s t u : State} (h : stillBusy s t) (h' : stillBusy t u) : stillBusy s u := by
  obtain ⟨hb, hc, hi, ha⟩ := h
  obtain ⟨hb', hc', hi', ha'⟩ := h'
  exact ⟨hb'.trans hb, hc'.trans hc, hi'.trans hi, ha'.trans ha⟩

/-- One element of PREPARE_ALL or ENABLE_ALL over the list l (R151, R152). -/
def State.startElem (s : State) (f : LifecycleFlag) (op : ClkOp) (code : Code) (l : List Consumer) : State :=
  s.atElem l fun k =>
    if s.clk.flag f k then s.nextElem l.length State.finish
    else s.startReq op (.consumer k) code fun x => (x.onClk (·.setFlag f k true)).nextElem l.length State.finish

/-- GLITCH_RISK is set if the command marks it and ANY_UP was sampled (R137). -/
def State.markIfUp (s : State) (marks : Bool) : State := if marks && s.position.up then s.flagGlitch else s

/-- One element of DISABLE_ALL or UNPREPARE_ALL over the list l; `marks` says whether the command marks GLITCH_RISK
(R153, R154). -/
def State.stopElem (s : State) (f : LifecycleFlag) (op : ClkOp) (marks : Bool) (l : List Consumer) : State :=
  s.atElem l fun k =>
    if s.clk.flag f k then
      s.teardownReq op (.consumer k) fun x =>
        ((x.markIfUp marks).onClk (·.setFlag f k false)).nextElem l.length State.finish
    else s.nextElem l.length State.finish

@[simp] theorem State.markIfUp_history (s : State) (marks : Bool) : (s.markIfUp marks).history = s.history := by
  unfold State.markIfUp; split <;> rfl
@[simp] theorem State.markIfUp_clk (s : State) (marks : Bool) : (s.markIfUp marks).clk = s.clk := by
  unfold State.markIfUp; split <;> rfl
@[simp] theorem State.markIfUp_env (s : State) (marks : Bool) : (s.markIfUp marks).env = s.env := by
  unfold State.markIfUp; split <;> rfl
@[simp] theorem State.markIfUp_position (s : State) (marks : Bool) : (s.markIfUp marks).position = s.position := by
  unfold State.markIfUp; split <;> rfl
@[simp] theorem State.markIfUp_glitchRisk (s : State) (marks : Bool) :
    (s.markIfUp marks).win.glitchRisk = (s.win.glitchRisk || (marks && s.position.up)) := by
  unfold State.markIfUp
  split
  · next h => simp [h]
  · next h => simp [Bool.not_eq_true _ ▸ h]
@[simp] theorem State.markIfUp_teardownFault (s : State) (marks : Bool) :
    (s.markIfUp marks).win.teardownFault = s.win.teardownFault := by
  unfold State.markIfUp; split <;> rfl

theorem State.markIfUp_stillBusy (s : State) (marks : Bool) : stillBusy s (s.markIfUp marks) := by
  unfold State.markIfUp; split <;> exact ⟨rfl, rfl, rfl, rfl⟩

section Elements

variable {f : LifecycleFlag} {op : ClkOp} {code : Code} {l : List Consumer} {k : Consumer} {d : Answer}
  {marks : Bool} (hk : l[s.position.elem]? = some k)
include hk

/-- A clock that is started already gets no request. -/
theorem State.startElem_skip (hset : s.clk.flag f k = true) :
    s.startElem f op code l = s.nextElem l.length State.finish := by
  rw [State.startElem, State.atElem_some hk, if_pos hset]

/-- A clock that is not started yet gets a request, which is answered. -/
theorem State.startElem_some {rest : List (Option Answer)} (hclear : s.clk.flag f k = false)
    (hans : s.env.answers = some d :: rest) :
    s.startElem f op code l =
      if d.ok then
        ((s.clkAnswered op (.consumer k) d.ok rest).onClk (·.setFlag f k true)).nextElem l.length State.finish
      else (s.clkAnswered op (.consumer k) d.ok rest).raise code k.id 0 := by
  rw [State.startElem, State.atElem_some hk, if_neg (by simp [hclear]), State.startReq_some hans]
  rfl

/-- A clock that is stopped already gets no request. -/
theorem State.stopElem_skip (hclear : s.clk.flag f k = false) :
    s.stopElem f op marks l = s.nextElem l.length State.finish := by
  rw [State.stopElem, State.atElem_some hk, if_neg (by simp [hclear])]

/-- A clock that is not stopped yet gets a request, which is answered. -/
theorem State.stopElem_some {rest : List (Option Answer)} (hset : s.clk.flag f k = true)
    (hans : s.env.answers = some d :: rest) :
    s.stopElem f op marks l =
      (((s.tornDown op (.consumer k) d.ok rest).markIfUp marks).onClk
        (·.setFlag f k false)).nextElem l.length State.finish := by
  rw [State.stopElem, State.atElem_some hk, if_pos hset, State.teardownReq_some hans]
  rfl

/-- What the request to start a clock leaves (R141). -/
theorem State.startElem_answered (hclear : s.clk.flag f k = false) (hans : answered s d) :
    recorded s (s.startElem f op code l) [.clkReq op (.consumer k) d.ok] ∧
    flagsAndDataKept s (s.startElem f op code l) ∧
    if d.ok then (s.startElem f op code l).clk = s.clk.setFlag f k true ∧ movedOn s (s.startElem f op code l) l.length
    else (s.startElem f op code l).clk = s.clk ∧ (s.startElem f op code l).endedWith code k.id 0 := by
  obtain ⟨rest, hans⟩ := hans
  rw [State.startElem_some hk hclear hans]
  cases d.ok with
  | true =>
    exact ⟨by simp [recorded], by simp [flagsAndDataKept], by simp,
      State.nextElem_movedOn ⟨rfl, rfl, rfl, rfl⟩ rfl⟩
  | false => exact ⟨rfl, ⟨rfl, rfl, rfl⟩, rfl, State.raise_endedWith _ _ _ _⟩

/-- What the request to stop a clock leaves, whatever the answer (R141). -/
theorem State.stopElem_answered (hset : s.clk.flag f k = true) (hans : answered s d) :
    recorded s (s.stopElem f op marks l) [.clkReq op (.consumer k) d.ok] ∧
    (s.stopElem f op marks l).clk = s.clk.setFlag f k false ∧
    (s.stopElem f op marks l).win.glitchRisk = (s.win.glitchRisk || (marks && s.position.up)) ∧
    (s.stopElem f op marks l).win.teardownFault = (s.win.teardownFault || !d.ok) ∧
    movedOn s (s.stopElem f op marks l) l.length := by
  obtain ⟨rest, hans⟩ := hans
  rw [State.stopElem_some hk hset hans]
  exact ⟨by simp [recorded], by simp, by simp, by simp, State.nextElem_movedOn
    ((s.tornDown_stillBusy ..).trans (State.markIfUp_stillBusy _ marks)) (by simp)⟩

end Elements

/-! ## The commands as steps over their elements -/

theorem execPrepareAll_start (g : Group) (h : s.atStart) :
    exec (.prepareAll g) s = .next (s.enterBody (groupList s.cfg g).length) := by
  rw [exec, execPrepareAll, State.byPhase_start _ _ h]

theorem execPrepareAll_body (g : Group) {p : Position} (h : s.inBody p) :
    exec (.prepareAll g) s = .next (s.startElem .prepared .prepare .prepareError (groupList s.cfg g)) := by
  rw [exec, execPrepareAll, State.byPhase_body _ _ h]; rfl

theorem execEnableAll_body (g : Group) {p : Position} (h : s.inBody p) :
    exec (.enableAll g) s = .next (s.startElem .enabled .enable .enableError (groupList s.cfg g)) := by
  rw [exec, execEnableAll, State.byGuards_body _ _ _ _ h]; rfl

theorem execDisableAll_start (g : Group) (h : s.atStart) :
    exec (.disableAll g) s =
      .next ((s.goTo fun p => { p with up := s.anyUp }).enterBody (groupList s.cfg g).reverse.length) := by
  rw [exec, execDisableAll, State.byPhase_start _ _ h]

theorem execDisableAll_body (g : Group) {p : Position} (h : s.inBody p) :
    exec (.disableAll g) s = .next (s.stopElem .enabled .disable true (groupList s.cfg g).reverse) := by
  rw [exec, execDisableAll, State.byPhase_body _ _ h]; rfl

theorem execUnprepareAll_body (g : Group) {p : Position} (h : s.inBody p) :
    exec (.unprepareAll g) s = .next (s.stopElem .prepared .unprepare false (groupList s.cfg g).reverse) := by
  rw [exec, execUnprepareAll, State.byGuards_body _ _ _ _ h]; rfl

/-- Entering a body from a state x at the start, with the same STATUS as s. -/
theorem State.enterBody_entered_of {x : State} (h : stillBusy s x) (n : Nat) : entered s (x.enterBody n) n := by
  have hx := x.enterBody_entered n
  unfold entered at hx ⊢
  split at hx
  · next hn => rwa [if_pos hn]
  · next hn =>
    rw [if_neg hn]
    exact ⟨h.trans hx.1, hx.2⟩

/-- Entering a body keeps the sample of ANY_UP (R153, R156). -/
theorem State.enterBody_up {n : Nat} {q : Position} (hq : (s.enterBody n).eng.step = some q) :
    q.up = s.position.up := by
  unfold State.enterBody at hq
  split at hq
  · exact nomatch hq
  · rw [← Option.some.inj hq]

/-- ANY_UP (R131), said of the codecs. -/
theorem State.anyUp_iff (s : State) : s.anyUp = true ↔ someCodecUp s := by
  simp [State.anyUp, someCodecUp, mem_presentCodecs]

/-- A clock that is in the asked state already takes a step and nothing else (log 2). -/
theorem State.startElem_skipped {f : LifecycleFlag} {op : ClkOp} {code : Code} {l : List Consumer} {k : Consumer}
    (hk : l[s.position.elem]? = some k) (hset : s.clk.flag f k = true) :
    movedOn s (s.startElem f op code l) l.length ∧ onlyStatusChanged s (s.startElem f op code l) := by
  rw [State.startElem_skip hk hset]
  exact ⟨State.nextElem_movedOn ⟨rfl, rfl, rfl, rfl⟩ rfl, s.nextElem_onlyStatusChanged _⟩

theorem State.stopElem_skipped {f : LifecycleFlag} {op : ClkOp} {marks : Bool} {l : List Consumer} {k : Consumer}
    (hk : l[s.position.elem]? = some k) (hclear : s.clk.flag f k = false) :
    movedOn s (s.stopElem f op marks l) l.length ∧ onlyStatusChanged s (s.stopElem f op marks l) := by
  rw [State.stopElem_skip hk hclear]
  exact ⟨State.nextElem_movedOn ⟨rfl, rfl, rfl, rfl⟩ rfl, s.nextElem_onlyStatusChanged _⟩

/-! ## The statements -/

/-- Settles O15: the body is `startElem` over the group. -/
theorem prepareAllPreparesEachUnpreparedClock : Obligations.PrepareAllPreparesEachUnpreparedClock := by
  unfold Obligations.PrepareAllPreparesEachUnpreparedClock
  intro g s
  refine ⟨by cases g <;> rfl, fun h => ?_, fun p k hin hk => ?_⟩
  · exact ⟨_, execPrepareAll_start g h, s.enterBody_entered _, s.enterBody_onlyStatusChanged _⟩
  · have hexec := execPrepareAll_body g hin
    rw [← hin.position] at hk
    exact ⟨fun hset => ⟨_, hexec, State.startElem_skipped hk hset⟩,
      fun d hclear hans => ⟨_, hexec, State.startElem_answered hk hclear hans⟩⟩

/-- A run is refused at the first element of a guard loop that fails, past the loops before it (R10, R127). -/
theorem HasGuards.refusedAt {α : Type} {i : Instr} {n : Nat} {gs before after : List GuardCheck} {l pre post : List α}
    {a : α} (h : HasGuards i s gs n) (check : α → GuardCheck) (hgs : gs = before ++ (l.map check ++ after))
    (hl : l = pre ++ a :: post)
    (hbefore : ∀ x ∈ before, x.fails = false) (hpre : ∀ x ∈ pre, (check x).fails = false)
    (hfails : (check a).fails = true) :
    refusedAtGuard i s (before.length + pre.length) (check a).id (check a).guard.number := by
  have hall : ∀ x ∈ before ++ pre.map check, x.fails = false :=
    List.forall_mem_append.mpr ⟨hbefore, List.forall_mem_map.mpr hpre⟩
  have hsplit : gs = (before ++ pre.map check) ++ check a :: (post.map check ++ after) := by
    simp [hgs, hl]
  simpa using h.refused hsplit hall hfails

/-- Settles O16: the guard loops are refused at the first check that fails (`HasGuards.refusedAt`), and the body is
`startElem` over the group. -/
theorem enableAllEnablesEachStoppedClock : Obligations.EnableAllEnablesEachStoppedClock := by
  unfold Obligations.EnableAllEnablesEachStoppedClock
  intro g s
  refine ⟨by cases g <;> rfl, fun h => ?_, fun p k hin hk => ?_⟩
  · have hguards := hasGuards_enableAll g h
    refine ⟨fun pre c post hl hpre hc => ?_, fun hsysclk => ?_⟩
    · simpa [Guard.number] using hguards.refusedAt (before := [])
        (fun c => { fails := !(s.codec c).sysclkValid, id := codecNum c, guard := .codecSysclkMissing })
        rfl hl nofun (fun x hx => by simp [hpre x hx]) (by simp [hc])
    · have hpass : ∀ x ∈ s.sysclkChecks (presentCodecs s.cfg) .codecSysclkMissing, x.fails = false :=
        List.forall_mem_map.mpr fun c hc => by simp [hsysclk c hc]
      refine ⟨fun pre k post hl hpre hk => ?_, fun hprepared => ?_⟩
      · simpa [State.sysclkChecks, Guard.number] using hguards.refusedAt
          (fun k => { fails := !s.clk.prepared k, id := k.id, guard := .clockNotPrepared })
          (by rw [List.append_nil]; rfl) hl hpass (fun x hx => by simp [hpre x hx]) (by simp [hk])
      · have hchecks : checksPass (.enableAll g) s := ⟨hsysclk, hprepared⟩
        simpa [enableGuards, State.sysclkChecks] using hguards.passes hchecks.guards
  · have hexec := execEnableAll_body g hin
    rw [← hin.position] at hk
    exact ⟨fun hset => ⟨_, hexec, State.startElem_skipped hk hset⟩,
      fun d hclear hans => ⟨_, hexec, State.startElem_answered hk hclear hans⟩⟩

/-- Settles O17: the first step notes ANY_UP, and the body is `stopElem` over the group in reverse. -/
theorem disableAllDisablesEachEnabledClock : Obligations.DisableAllDisablesEachEnabledClock := by
  unfold Obligations.DisableAllDisablesEachEnabledClock
  intro g s
  refine ⟨by cases g <;> rfl, fun h => ?_, fun p k hin hk => ?_⟩
  · refine ⟨_, execDisableAll_start g h, ?_, (s.goTo_onlyStatusChanged _).trans (State.enterBody_onlyStatusChanged _ _),
      fun q hq => ?_⟩
    · simpa using State.enterBody_entered_of (s := s) (x := s.goTo fun p => { p with up := s.anyUp })
        ⟨rfl, rfl, rfl, rfl⟩ (groupList s.cfg g).reverse.length
    · rw [State.enterBody_up hq]
      exact s.anyUp_iff
  · have hexec := execDisableAll_body g hin
    rw [← hin.position] at hk ⊢
    rw [← List.length_reverse]
    exact ⟨fun hclear => ⟨_, hexec, State.stopElem_skipped hk hclear⟩,
      fun d hset hans => ⟨_, hexec, State.stopElem_answered hk hset hans⟩⟩

/-- Settles O18: the guard loop is refused at the first enabled clock (`HasGuards.refusedAt`), and the body is
`stopElem` over the group in reverse. -/
theorem unprepareAllUnpreparesEachPreparedClock : Obligations.UnprepareAllUnpreparesEachPreparedClock := by
  unfold Obligations.UnprepareAllUnpreparesEachPreparedClock
  intro g s
  refine ⟨by cases g <;> rfl, fun h => ?_, fun p k hin hk => ?_⟩
  · have hguards := hasGuards_unprepareAll g h
    refine ⟨fun pre k post hl hpre hk => ?_, fun hstopped => ?_⟩
    · simpa [Guard.number] using hguards.refusedAt (before := [])
        (fun k => { fails := s.clk.enabled k, id := k.id, guard := .clockStillEnabled })
        (List.append_nil _).symm hl nofun hpre hk
    · have hchecks : checksPass (.unprepareAll g) s := hstopped
      simpa [unprepareGuards] using hguards.passes hchecks.guards
  · have hexec := execUnprepareAll_body g hin
    rw [← hin.position] at hk
    rw [← List.length_reverse]
    refine ⟨fun hclear => ⟨_, hexec, State.stopElem_skipped hk hclear⟩, fun d hset hans => ⟨_, hexec, ?_⟩⟩
    simpa using State.stopElem_answered (f := .prepared) (marks := false) hk hset hans

end Sys2Proof.Machine
end

section
/-! PROOFS. The master clock commands (R155, R156): what each of their requests leaves, and the moments the master flag
moves (R167). -/
namespace Sys2Proof.Machine

variable {s t : State} {d : Answer} {rest : List (Option Answer)} {p : Position} {src : MasterSource}

/-! ## SELECT_MASTER, request by request (R155) -/

theorem execSelectMaster_unsupported (h : s.atStart) (hsrc : masterSource s.eng.cur.arg0 = none) :
    exec .selectMaster s = .next (s.raise .unsupportedMasterRate 0 0) := by
  rw [exec, execSelectMaster, State.byPhase_start _ _ h, hsrc]

theorem execSelectMaster_refused (h : s.atStart) (hsrc : masterSource s.eng.cur.arg0 = some src)
    (hgate : s.clk.gatePrepared = true) :
    exec .selectMaster s = .next (s.raise .sequenceError 6 0x08) := by
  rw [exec, execSelectMaster, State.byPhase_start _ _ h, hsrc]
  simp [hgate, Clock.id, Guard.number]

theorem execSelectMaster_start (h : s.atStart) (hsrc : masterSource s.eng.cur.arg0 = some src)
    (hgate : s.clk.gatePrepared = false) : exec .selectMaster s = .next (s.enterBody 1) := by
  rw [exec, execSelectMaster, State.byPhase_start _ _ h, hsrc]
  simp [hgate]

section Requests

variable (hin : s.inBody p) (hsrc : masterSource s.eng.cur.arg0 = some src) (hans : s.env.answers = some d :: rest)
include hin hsrc hans

/-- The mux request (R161, R259). -/
theorem execSelectMaster_mux (hreq : p.req = 0) :
    exec .selectMaster s = .next
      (if d.ok then ((s.clkAnswered (.setParentSource (muxSelector s.cfg src)) .mux true rest).onClk
          fun c => { c with muxSel := some src }).nextReq
        else ((s.clkAnswered (.setParentSource (muxSelector s.cfg src)) .mux false rest).onClk
          fun c => { c with muxSel := none }).raise .rateSetError 7 0) := by
  rw [exec, execSelectMaster, State.byPhase_body _ _ hin, hsrc, hin.position, hreq]
  simp only [selectMux, State.clkReq_some hans]
  cases d.ok <;> rfl

/-- The gate prepare (R162). -/
theorem execSelectMaster_prepare (hreq : p.req = 1) :
    exec .selectMaster s = .next
      (if d.ok then ((s.clkAnswered .prepare .gate true rest).onClk fun c => { c with gatePrepared := true }).nextReq
        else (s.clkAnswered .prepare .gate false rest).raise .prepareError 6 0) := by
  rw [exec, execSelectMaster, State.byPhase_body _ _ hin, hsrc, hin.position, hreq]
  simp only [State.startReq_some hans]
  cases d.ok <;> rfl

/-- The gate enable, whose `ok` starts the settle wait (R162, R165). -/
theorem execSelectMaster_enable (hreq : p.req = 2) :
    exec .selectMaster s = .next
      (if d.ok then (((s.clkAnswered .enable .gate true rest).onClk
          fun c => { c with gateEnabled := true, settlePending := true }).record (.settleStart s.now)).nextReq
        else (s.clkAnswered .enable .gate false rest).raise .enableError 6 0) := by
  rw [exec, execSelectMaster, State.byPhase_body _ _ hin, hsrc, hin.position, hreq]
  simp only [enableGate, State.startReq_some hans]
  cases d.ok <;> rfl

end Requests

/-- The settle wait (R166). -/
theorem execSelectMaster_settle (hin : s.inBody p) (hsrc : masterSource s.eng.cur.arg0 = some src) (hreq : p.req = 3) :
    exec .selectMaster s = .next (endSettle s) := by
  rw [exec, execSelectMaster, State.byPhase_body _ _ hin, hsrc, hin.position, hreq]

/-- The timer fired: no earlier than SETTLE_MS after the start the master clock counts as enabled (R166). -/
def settled (s t : State) : Prop :=
  recorded s t [.settleEnd t.now] ∧ flagsAndDataKept s t ∧ s.now + 20 ≤ t.now ∧
  t.clk = { s.clk with settlePending := false, masterClockEnabled := true } ∧ t.endedWith .ok 0 0

/-- The timer fires (R166). -/
def State.fireTimer (s : State) (d : Answer) : State :=
  let t := s.now + settleMs + d.extraMs
  (({ s with now := t } : State).record (.settleEnd t)).onClk (fun c =>
    { c with settlePending := false, masterClockEnabled := true }) |>.finish

theorem endSettle_eq (s : State) : endSettle s = s.awaitAnswer fun d x => x.fireTimer d := rfl

theorem State.fireTimer_settled (s : State) (e : Environment) (d : Answer) :
    settled s (({ s with env := e } : State).fireTimer d) := by
  refine ⟨rfl, ⟨rfl, rfl, rfl⟩, ?_, rfl, State.raise_endedWith _ _ _ _⟩
  show s.now + 20 ≤ s.now + 20 + d.extraMs
  omega

theorem endSettle_settled (hans : answered s d) : settled s (endSettle s) := by
  obtain ⟨rest, hans⟩ := hans
  rw [endSettle_eq, State.awaitAnswer_some hans]
  exact s.fireTimer_settled _ d

/-- The two master rates and their sources (R161). -/
theorem masterSource_eq_some_iff (hz : Word) (src : MasterSource) : masterSource hz = some src ↔
    (hz.toNat = 22579200 ∧ src = .src44k1) ∨ (hz.toNat = 24576000 ∧ src = .src48k) := by
  unfold masterSource mclk44k1 mclk48k
  split
  · next h => simp [h, eq_comm]
  · next h => split <;> simp_all [eq_comm]

theorem masterSource_eq_none {hz : Word} (h : hz.toNat ≠ 22579200) (h' : hz.toNat ≠ 24576000) :
    masterSource hz = none := by
  rw [masterSource, mclk44k1, mclk48k, if_neg h, if_neg h']

/-- Settles O19: an equation per request (`execSelectMaster_mux` and after), and the settle wait by `settled`. -/
theorem selectMasterStartsTheGateAndSettles : Obligations.SelectMasterStartsTheGateAndSettles := by
  unfold Obligations.SelectMasterStartsTheGateAndSettles
  intro s
  refine ⟨rfl, fun h => ⟨fun hne hne' => ?_, fun hrate => ?_⟩, fun p d src sel hin hans hsel => ?_⟩
  · exact ⟨_, execSelectMaster_unsupported h (masterSource_eq_none hne hne'), State.raise_endedWith _ _ _ _, rfl⟩
  · obtain ⟨src, hsrc⟩ : ∃ src, masterSource s.eng.cur.arg0 = some src := by
      rcases hrate with hrate | hrate
      · exact ⟨_, (masterSource_eq_some_iff _ _).mpr (.inl ⟨hrate, rfl⟩)⟩
      · exact ⟨_, (masterSource_eq_some_iff _ _).mpr (.inr ⟨hrate, rfl⟩)⟩
    exact ⟨fun hgate => ⟨_, execSelectMaster_refused h hsrc hgate, State.raise_endedWith _ _ _ _, rfl⟩,
      fun hgate => ⟨_, execSelectMaster_start h hsrc hgate, s.enterBody_entered 1, s.enterBody_onlyStatusChanged 1⟩⟩
  · obtain ⟨hsrc, rfl⟩ : masterSource s.eng.cur.arg0 = some src ∧ sel = muxSelector s.cfg src := by
      rcases hsel with ⟨hrate, rfl, rfl⟩ | ⟨hrate, rfl, rfl⟩
      · exact ⟨(masterSource_eq_some_iff _ _).mpr (.inl ⟨hrate, rfl⟩), rfl⟩
      · exact ⟨(masterSource_eq_some_iff _ _).mpr (.inr ⟨hrate, rfl⟩), rfl⟩
    have hans' := hans
    obtain ⟨rest, hans⟩ := hans
    refine ⟨fun hreq => ⟨_, execSelectMaster_mux hin hsrc hans hreq, ?_⟩,
      fun hreq => ⟨_, execSelectMaster_prepare hin hsrc hans hreq, ?_⟩,
      fun hreq => ⟨_, execSelectMaster_enable hin hsrc hans hreq, ?_⟩,
      fun hreq => ⟨_, execSelectMaster_settle hin hsrc hreq, endSettle_settled hans'⟩⟩
    · cases d.ok with
      | true => exact ⟨rfl, ⟨rfl, rfl, rfl⟩, rfl, State.nextReq_toNextRequest ⟨rfl, rfl, rfl, rfl⟩ rfl⟩
      | false => exact ⟨rfl, ⟨rfl, rfl, rfl⟩, rfl, State.raise_endedWith _ _ _ _⟩
    · cases d.ok with
      | true => exact ⟨rfl, ⟨rfl, rfl, rfl⟩, rfl, State.nextReq_toNextRequest ⟨rfl, rfl, rfl, rfl⟩ rfl⟩
      | false => exact ⟨rfl, ⟨rfl, rfl, rfl⟩, rfl, State.raise_endedWith _ _ _ _⟩
    · cases d.ok with
      | true =>
        exact ⟨⟨rfl, rfl, rfl⟩, by simp [recorded], rfl, State.nextReq_toNextRequest ⟨rfl, rfl, rfl, rfl⟩ rfl⟩
      | false => exact ⟨⟨rfl, rfl, rfl⟩, rfl, rfl, State.raise_endedWith _ _ _ _⟩

/-! ## RELEASE_MASTER, request by request (R156) -/

/-- The first step of RELEASE_MASTER: the master flag goes, and ANY_UP is sampled (R167, R137). -/
def State.beginRelease (s : State) : State :=
  (s.goTo fun p => { p with up := s.anyUp }).onClk fun c => { c with masterClockEnabled := false }

theorem execReleaseMaster_start (h : s.atStart) : exec .releaseMaster s = .next (s.beginRelease.enterBody 1) := by
  rw [exec, execReleaseMaster, State.byPhase_start _ _ h]; rfl

theorem execReleaseMaster_skipDisable (hin : s.inBody p) (hreq : p.req = 0) (hgate : s.clk.gateEnabled = false) :
    exec .releaseMaster s = .next s.nextReq := by
  rw [exec, execReleaseMaster, State.byPhase_body _ _ hin, hin.position, hreq]
  simp [hgate]

theorem execReleaseMaster_disable (hin : s.inBody p) (hreq : p.req = 0) (hgate : s.clk.gateEnabled = true)
    (hans : s.env.answers = some d :: rest) :
    exec .releaseMaster s = .next (((s.tornDown .disable .gate d.ok rest).markIfUp true).onClk
      fun c => { c with gateEnabled := false }).nextReq := by
  rw [exec, execReleaseMaster, State.byPhase_body _ _ hin, hin.position, hreq]
  simp only [hgate, if_true, State.teardownReq_some hans]
  rfl

theorem execReleaseMaster_skipUnprepare (hin : s.inBody p) (hreq : p.req = 1) (hgate : s.clk.gatePrepared = false) :
    exec .releaseMaster s = .next s.finish := by
  rw [exec, execReleaseMaster, State.byPhase_body _ _ hin, hin.position, hreq]
  simp [hgate]

theorem execReleaseMaster_unprepare (hin : s.inBody p) (hreq : p.req = 1) (hgate : s.clk.gatePrepared = true)
    (hans : s.env.answers = some d :: rest) :
    exec .releaseMaster s = .next
      ((s.tornDown .unprepare .gate d.ok rest).onClk fun c => { c with gatePrepared := false }).finish := by
  rw [exec, execReleaseMaster, State.byPhase_body _ _ hin, hin.position, hreq]
  simp only [hgate, if_true, State.teardownReq_some hans]
  rfl

/-- Settles O20: an equation per request (`execReleaseMaster_start` and after). -/
theorem releaseMasterStopsTheGate : Obligations.ReleaseMasterStopsTheGate := by
  unfold Obligations.ReleaseMasterStopsTheGate
  intro s
  refine ⟨rfl, fun h => ?_, fun p hin => ⟨fun hreq hgate => ?_, fun d hreq hgate ⟨rest, hans⟩ => ?_,
    fun hreq hgate => ?_, fun d hreq hgate ⟨rest, hans⟩ => ?_⟩⟩
  · refine ⟨_, execReleaseMaster_start h, State.enterBody_entered_of ⟨rfl, rfl, rfl, rfl⟩ 1,
      by rw [recorded, List.append_nil]; rfl, ⟨rfl, rfl, rfl⟩, rfl, fun q hq => ?_⟩
    rw [State.enterBody_up hq]
    exact s.anyUp_iff
  · exact ⟨_, execReleaseMaster_skipDisable hin hreq hgate, State.nextReq_toNextRequest ⟨rfl, rfl, rfl, rfl⟩ rfl, rfl⟩
  · refine ⟨_, execReleaseMaster_disable hin hreq hgate hans, ?_⟩
    rw [← hin.position]
    exact ⟨by simp [recorded], by simp, by simp, by simp, State.nextReq_toNextRequest
      ((s.tornDown_stillBusy ..).trans (State.markIfUp_stillBusy _ true)) (by simp)⟩
  · exact ⟨_, execReleaseMaster_skipUnprepare hin hreq hgate, State.raise_endedWith _ _ _ _, rfl⟩
  · exact ⟨_, execReleaseMaster_unprepare hin hreq hgate hans, by simp [recorded], by simp, by simp, by simp,
      State.raise_endedWith _ _ _ _⟩

/-! ## The master flag (R167) -/

/-- The master flag is as in s. -/
def masterFlagKept (s t : State) : Prop := t.clk.masterClockEnabled = s.clk.masterClockEnabled

/-- The master flag is as in s, or the settle wait has ended. -/
def masterFlagKeptOrSettled (s t : State) : Prop := masterFlagKept s t ∨ settled s t

/-- SELECT_MASTER moves the master flag only at the end of the settle wait. -/
theorem execSelectMaster_masterFlag (h : exec .selectMaster s = .next t) : masterFlagKeptOrSettled s t := by
  simp only [exec, execSelectMaster] at h
  refine State.byPhase_elim (P := masterFlagKeptOrSettled s) h (fun _ => ?_) (fun _ => ?_) fun _ => .inl rfl
  · split
    · exact .inl rfl
    · split
      · exact .inl rfl
      · exact .inl (congrArg _ (s.enterBody_onlyStatusChanged 1).clk_eq)
  · split
    · exact .inl rfl
    · refine State.clkReq_elim (P := masterFlagKeptOrSettled s) (fun _ => .inl rfl) fun ok _ => ?_
      cases ok <;> exact .inl rfl
    · exact State.startReq_elim (P := masterFlagKeptOrSettled s) (fun _ => .inl rfl) (fun _ => .inl rfl)
        fun _ => .inl rfl
    · exact State.startReq_elim (P := masterFlagKeptOrSettled s) (fun _ => .inl rfl) (fun _ => .inl rfl)
        fun _ => .inl rfl
    · exact State.awaitAnswer_elim (P := masterFlagKeptOrSettled s) (fun _ => .inl rfl)
        fun d e => .inr (s.fireTimer_settled e d)

/-- The master flag is cleared at the start of a command, and later as in s. -/
def masterFlagClearedAtStart (s t : State) : Prop :=
  (s.position.phase = .start ∧ t.clk.masterClockEnabled = false) ∨ (s.position.phase ≠ .start ∧ masterFlagKept s t)

/-- RELEASE_MASTER moves the master flag only at its first step, which clears it. -/
theorem execReleaseMaster_masterFlag (h : exec .releaseMaster s = .next t) : masterFlagClearedAtStart s t := by
  simp only [exec, execReleaseMaster] at h
  refine State.byPhase_elim (P := masterFlagClearedAtStart s) h (fun hp => .inl ⟨hp, ?_⟩)
    (fun hp => .inr ⟨by simp [hp], ?_⟩) fun hp => .inr ⟨by simp [hp], rfl⟩
  · rw [(State.enterBody_onlyStatusChanged _ _).clk_eq]
    rfl
  · split
    · split
      · refine State.teardownReq_elim (P := masterFlagKept s) (fun _ => rfl) (fun _ => ?_) fun _ => ?_
        · split <;> rfl
        · split <;> rfl
      · rfl
    · split
      · exact State.teardownReq_elim (P := masterFlagKept s) (fun _ => rfl) (fun _ => rfl) fun _ => rfl
      · rfl

/-- Settles O38: the other commands keep the flag (`clocksKept`); the two of the master clock move it as
`execSelectMaster_masterFlag` and `execReleaseMaster_masterFlag` say. -/
theorem masterFlagMovesOnlyAtSettleEndAndRelease : Obligations.MasterFlagMovesOnlyAtSettleEndAndRelease := by
  unfold Obligations.MasterFlagMovesOnlyAtSettleEndAndRelease
  intro i s t h
  by_cases hmaster : masterCommand i
  · rcases hmaster with rfl | rfl
    · refine ⟨fun hs ht => ?_, fun hs ht => ?_, nofun⟩
      · obtain hkept | ⟨hrec, -, hnow, -, hend⟩ := execSelectMaster_masterFlag h
        · exact nomatch ht.symm.trans (hkept.trans hs)
        · exact ⟨rfl, hrec, hnow, hend⟩
      · obtain hkept | ⟨-, -, -, hclk, -⟩ := execSelectMaster_masterFlag h
        · exact nomatch ht.symm.trans (hkept.trans hs)
        · exact nomatch ht.symm.trans (congrArg ClockState.masterClockEnabled hclk)
    · obtain ⟨hp, hclear⟩ | ⟨hp, hkept⟩ := execReleaseMaster_masterFlag h
      · exact ⟨fun _ ht => (nomatch ht.symm.trans hclear), fun _ _ => ⟨rfl, hp⟩, fun _ _ => hclear⟩
      · exact ⟨fun hs ht => (nomatch ht.symm.trans (hkept.trans hs)),
          fun hs ht => (nomatch ht.symm.trans (hkept.trans hs)), fun _ hstart => absurd hstart hp⟩
  · obtain ⟨-, -, hkept, -, -⟩ := (exec_shape h).clocksKept.masterPart hmaster
    exact ⟨fun hs ht => (nomatch ht.symm.trans (hkept.trans hs)), fun hs ht => (nomatch ht.symm.trans (hkept.trans hs)),
      fun hi => absurd (.inr hi) hmaster⟩

end Sys2Proof.Machine
end

section
/-! PROOFS. The runs of the master clock commands (R164): SELECT_MASTER to each of its failures, and RELEASE_MASTER,
which unwinds them all. -/
namespace Sys2Proof.Machine

variable {i : Instr} {s t : State} {d : Answer} {rest : List (Option Answer)} {p : Position} {src : MasterSource}
  {n : Nat} {ok : Prop}

/-! ## Steps of a run -/

/-- A run goes on after one step. -/
theorem completes.thenRuns {P Q : State → Prop} (h : completes i s P) (hbusy : s.eng.busy = true)
    (hnext : ∀ t, P t → completesIn n i t Q) : completesIn (n + 1) i s Q := by
  obtain ⟨t, ht, hP⟩ := h
  obtain ⟨u, hu, hQ⟩ := hnext t hP
  exact ⟨u, by rw [runExec_step hbusy ht, hu], hQ⟩

/-- A run is over with the step that ends the command. -/
theorem completes.ends {P : State → Prop} (h : completes i s P) (hbusy : s.eng.busy = true)
    (hend : ∀ t, P t → t.eng.busy = false) : completesIn (n + 1) i s P :=
  h.thenRuns hbusy fun t hP => ⟨t, runExec_done (hend t hP), hP⟩

/-- The command has ended with this code and this id, and left the clocks c. -/
def endedLeaving (c : ClockState) (code : Code) (id : Nat) (t : State) : Prop :=
  t.endedWith code id 0 ∧ t.clk = c

theorem endedLeaving.idle {c : ClockState} {code : Code} {id : Nat} {t : State} (h : endedLeaving c code id t) :
    t.eng.busy = false := h.1.1

/-- The engine is in a body at request r, with the clocks c and the answers l to come. -/
structure AtRequest (r : Nat) (c : ClockState) (l : List (Option Answer)) (t : State) : Prop where
  inBody  : ∃ p, t.inBody p ∧ p.req = r
  clk     : t.clk = c
  answers : t.env.answers = l

theorem AtRequest.busy {r : Nat} {c : ClockState} {l : List (Option Answer)} (h : AtRequest r c l t) :
    t.eng.busy = true := by
  obtain ⟨⟨p, ⟨hbusy, -⟩, -⟩, -⟩ := h
  exact hbusy

/-- The move to the next request, from a state x that acted at the position of s. -/
theorem AtRequest.of_nextReq {x : State} {r : Nat} {c : ClockState} {l : List (Option Answer)} (hin : s.inBody p)
    (hreq : p.req = r) (hbusy : x.eng.busy = s.eng.busy) (hp : x.position = s.position) (hclk : x.clk = c)
    (hans : x.env.answers = l) : AtRequest (r + 1) c l x.nextReq := by
  obtain ⟨hb, hs, hphase⟩ := hin
  have hx : x.position = p := hp.trans (State.position_of_step hs)
  exact ⟨⟨_, ⟨hbusy.trans hb, rfl, hx ▸ hphase⟩, (congrArg (·.req + 1) hx).trans (congrArg (· + 1) hreq)⟩, hclk, hans⟩

/-! ## Answers to come -/

theorem answersCome_iff (s : State) (n : Nat) : answersCome s n ↔ answersGood False s n := by
  simp [answersCome, answersGood, Option.ne_none_iff_exists']

theorem answersOk_iff (s : State) (n : Nat) : answersOk s n ↔ answersGood True s n := by
  simp [answersOk, answersGood]

/-- The next answer, and what is left after it. -/
theorem answersGood.next (h : answersGood ok s (n + 1)) :
    ∃ d rest, s.env.answers = some d :: rest ∧ (ok → d.ok = true) ∧
      ∀ t : State, t.env.answers = rest → answersGood ok t n := by
  obtain ⟨a, rest, hans⟩ := List.exists_cons_of_length_pos (Nat.lt_of_lt_of_le (Nat.succ_pos n) h.1)
  obtain ⟨d, rfl, hd⟩ := h.2 a (by rw [hans]; exact List.mem_cons_self ..)
  exact ⟨d, rest, hans, hd, fun t ht => h.of_step (Nat.le_refl _) (.inr (by rw [ht, hans]; rfl))⟩

theorem answersGood.congr {m : Nat} (h : answersGood ok s n) (ht : t.env.answers = s.env.answers) (hm : m ≤ n) :
    answersGood ok t m := by
  rw [answersGood, ht]
  exact ⟨Nat.le_trans hm h.1, h.2⟩

/-! ## SELECT_MASTER (R164) -/

/-- A SELECT_MASTER of the source src is in its body at request r. -/
def selecting (src : MasterSource) (r : Nat) (c : ClockState) (l : List (Option Answer)) (t : State) : Prop :=
  AtRequest r c l t ∧ masterSource t.eng.cur.arg0 = some src

theorem selecting.busy {r : Nat} {c : ClockState} {l : List (Option Answer)} (h : selecting src r c l t) :
    t.eng.busy = true := h.1.busy

theorem select_begins (h : s.atStart) (hsrc : masterSource s.eng.cur.arg0 = some src)
    (hgate : s.clk.gatePrepared = false) :
    completes .selectMaster s (selecting src 0 s.clk s.env.answers) :=
  ⟨_, execSelectMaster_start h hsrc hgate, ⟨⟨_, ⟨h.1, rfl, rfl⟩, rfl⟩, rfl, rfl⟩, hsrc⟩

section Requests

variable {c : ClockState}

theorem select_mux_ok (h : selecting src 0 c (some d :: rest) s) (hd : d.ok = true) :
    completes .selectMaster s (selecting src 1 { c with muxSel := some src } rest) := by
  obtain ⟨⟨⟨p, hin, hreq⟩, rfl, hans⟩, hsrc⟩ := h
  have hexec := execSelectMaster_mux hin hsrc hans hreq
  rw [if_pos hd] at hexec
  exact ⟨_, hexec, AtRequest.of_nextReq hin hreq rfl rfl rfl rfl, hsrc⟩

theorem select_mux_fails (h : selecting src 0 c (some d :: rest) s) (hd : d.ok = false) :
    completes .selectMaster s (endedLeaving { c with muxSel := none } .rateSetError 7) := by
  obtain ⟨⟨⟨p, hin, hreq⟩, rfl, hans⟩, hsrc⟩ := h
  have hexec := execSelectMaster_mux hin hsrc hans hreq
  rw [if_neg (by simp [hd])] at hexec
  exact ⟨_, hexec, State.raise_endedWith _ _ _ _, rfl⟩

theorem select_prepare_ok (h : selecting src 1 c (some d :: rest) s) (hd : d.ok = true) :
    completes .selectMaster s (selecting src 2 { c with gatePrepared := true } rest) := by
  obtain ⟨⟨⟨p, hin, hreq⟩, rfl, hans⟩, hsrc⟩ := h
  have hexec := execSelectMaster_prepare hin hsrc hans hreq
  rw [if_pos hd] at hexec
  exact ⟨_, hexec, AtRequest.of_nextReq hin hreq rfl rfl rfl rfl, hsrc⟩

theorem select_prepare_fails (h : selecting src 1 c (some d :: rest) s) (hd : d.ok = false) :
    completes .selectMaster s (endedLeaving c .prepareError 6) := by
  obtain ⟨⟨⟨p, hin, hreq⟩, rfl, hans⟩, hsrc⟩ := h
  have hexec := execSelectMaster_prepare hin hsrc hans hreq
  rw [if_neg (by simp [hd])] at hexec
  exact ⟨_, hexec, State.raise_endedWith _ _ _ _, rfl⟩

theorem select_enable_fails (h : selecting src 2 c (some d :: rest) s) (hd : d.ok = false) :
    completes .selectMaster s (endedLeaving c .enableError 6) := by
  obtain ⟨⟨⟨p, hin, hreq⟩, rfl, hans⟩, hsrc⟩ := h
  have hexec := execSelectMaster_enable hin hsrc hans hreq
  rw [if_neg (by simp [hd])] at hexec
  exact ⟨_, hexec, State.raise_endedWith _ _ _ _, rfl⟩

end Requests

/-! ## RELEASE_MASTER (R164) -/

/-- A RELEASE_MASTER is in its body at request r, with the clocks c and at least n answers to come. -/
def releasing (r : Nat) (c : ClockState) (n : Nat) (t : State) : Prop :=
  (∃ l, AtRequest r c l t) ∧ answersGood False t n

theorem releasing.busy {r : Nat} {c : ClockState} (h : releasing r c n t) : t.eng.busy = true := by
  obtain ⟨⟨_, hat⟩, -⟩ := h
  exact hat.busy

theorem release_begins (h : s.atStart) (hcome : answersGood False s n) :
    completes .releaseMaster s (releasing 0 { s.clk with masterClockEnabled := false } n) :=
  ⟨_, execReleaseMaster_start h, ⟨_, ⟨_, ⟨h.1, rfl, rfl⟩, rfl⟩, rfl, rfl⟩, hcome.congr rfl (Nat.le_refl n)⟩

/-- A flag that is clear already is as if cleared. -/
theorem ClockState.clear_gateEnabled {c : ClockState} (h : c.gateEnabled = false) :
    { c with gateEnabled := false } = c := by
  rw [← h]

theorem ClockState.clear_gatePrepared {c : ClockState} (h : c.gatePrepared = false) :
    { c with gatePrepared := false } = c := by
  rw [← h]

theorem release_disable {c : ClockState} (h : releasing 0 c (n + 1) s) :
    completes .releaseMaster s (releasing 1 { c with gateEnabled := false } n) := by
  obtain ⟨⟨l, ⟨p, hin, hreq⟩, rfl, -⟩, hcome⟩ := h
  cases hgate : s.clk.gateEnabled with
  | false =>
    rw [ClockState.clear_gateEnabled hgate]
    exact ⟨_, execReleaseMaster_skipDisable hin hreq hgate, ⟨_, AtRequest.of_nextReq hin hreq rfl rfl rfl rfl⟩,
      hcome.congr rfl (Nat.le_succ n)⟩
  | true =>
    obtain ⟨d, rest, hans, -, hcome⟩ := hcome.next
    have hbusy : ((s.tornDown .disable .gate d.ok rest).markIfUp true).eng.busy = s.eng.busy :=
      ((s.tornDown_stillBusy ..).trans (State.markIfUp_stillBusy _ true)).1
    exact ⟨_, execReleaseMaster_disable hin hreq hgate hans,
      ⟨rest, AtRequest.of_nextReq hin hreq hbusy (by simp) (by simp) (by simp)⟩, hcome _ (by simp)⟩

theorem release_unprepare {c : ClockState} (h : releasing 1 c (n + 1) s) :
    completes .releaseMaster s (endedLeaving { c with gatePrepared := false } .ok 0) := by
  obtain ⟨⟨l, ⟨p, hin, hreq⟩, rfl, -⟩, hcome⟩ := h
  cases hgate : s.clk.gatePrepared with
  | false =>
    rw [ClockState.clear_gatePrepared hgate]
    exact ⟨_, execReleaseMaster_skipUnprepare hin hreq hgate, State.raise_endedWith _ _ _ _, rfl⟩
  | true =>
    obtain ⟨d, rest, hans, -⟩ := hcome.next
    exact ⟨_, execReleaseMaster_unprepare hin hreq hgate hans, State.raise_endedWith _ _ _ _, by simp⟩

/-- RELEASE_MASTER, its requests answered, ends OK with the gate idle, whatever the state (R164). -/
theorem release_run (h : s.atStart) (hcome : answersGood False s 2) :
    completesIn 3 .releaseMaster s
      (endedLeaving { s.clk with masterClockEnabled := false, gateEnabled := false, gatePrepared := false } .ok 0) :=
  (release_begins h hcome).thenRuns h.1 fun _ ht => (release_disable ht).thenRuns ht.busy fun _ hu =>
    (release_unprepare hu).ends hu.busy fun _ hend => hend.idle

/-- RELEASE_MASTER with the gate idle makes no request (R159). -/
theorem release_idle_run (h : s.atStart) (hgp : s.clk.gatePrepared = false) (hge : s.clk.gateEnabled = false) :
    completesIn 3 .releaseMaster s fun t => t.endedWith .ok 0 0 ∧ t.history = s.history := by
  have hin : (s.beginRelease.enterBody 1).inBody
      { s.position with phase := .body, elem := 0, req := 0, up := s.anyUp } := ⟨h.1, rfl, rfl⟩
  have hin' : (s.beginRelease.enterBody 1).nextReq.inBody
      { s.position with phase := .body, elem := 0, req := 1, up := s.anyUp } := ⟨h.1, rfl, rfl⟩
  refine ⟨_, ?_, State.raise_endedWith (s.beginRelease.enterBody 1).nextReq _ _ _, rfl⟩
  rw [runExec_step h.1 (execReleaseMaster_start h), runExec_step hin.1 (execReleaseMaster_skipDisable hin rfl hge),
    runExec_step hin'.1 (execReleaseMaster_skipUnprepare hin' rfl hgp), runExec]
  rfl

/-- Settles O46: RELEASE_MASTER by `release_run`; SELECT_MASTER request by request to its failure. -/
theorem failedSelectMasterLeavesTheListedState : Obligations.FailedSelectMasterLeavesTheListedState := by
  unfold Obligations.FailedSelectMasterLeavesTheListedState
  refine ⟨fun s h hcome => ?_, fun s h hgp _ _ => ⟨fun hsrc => ?_, fun src hsrc => ?_⟩⟩
  · obtain ⟨t, ht, hend, hclk⟩ := release_run h ((answersCome_iff s 2).mp hcome)
    exact ⟨t, ht, hend, by rw [hclk], by rw [hclk], by rw [hclk]⟩
  · have hstep : completes .selectMaster s (endedLeaving s.clk .unsupportedMasterRate 0) :=
      ⟨_, execSelectMaster_unsupported h hsrc, State.raise_endedWith _ _ _ _, rfl⟩
    exact hstep.ends h.1 fun _ hend => hend.idle
  · have hbegin := select_begins h hsrc hgp
    refine ⟨fun d0 rest hans h0 => ?_, fun d0 d1 rest hans h0 h1 => ?_, fun d0 d1 d2 rest hans h0 h1 h2 => ?_⟩
    · rw [hans] at hbegin
      exact hbegin.thenRuns h.1 fun _ ht => (select_mux_fails ht h0).ends ht.busy fun _ hend => hend.idle
    · rw [hans] at hbegin
      exact hbegin.thenRuns h.1 fun _ ht => (select_mux_ok ht h0).thenRuns ht.busy fun _ hu =>
        (select_prepare_fails hu h1).ends hu.busy fun _ hend => hend.idle
    · rw [hans] at hbegin
      exact hbegin.thenRuns h.1 fun _ ht => (select_mux_ok ht h0).thenRuns ht.busy fun _ hu =>
        (select_prepare_ok hu h1).thenRuns hu.busy fun _ hv =>
          (select_enable_fails hv h2).ends hv.busy fun _ hend => hend.idle

end Sys2Proof.Machine
end

section
/-! PROOFS. The runs of the group commands (R158 to R160, R168): a walk over the elements of a body that no guard and no
answer stops, what it leaves where no clock is due, where all are, and whatever is due. -/
namespace Sys2Proof.Machine

variable {i : Instr} {s t : State} {g : Group} {p : Position} {m n : Nat} {ok : Prop} {f : LifecycleFlag} {op : ClkOp}
  {code : Code} {marks : Bool} {l : List Consumer} {k : Consumer}

/-! ## The walk over a body -/

/-- A run that has ended has ended for every larger number of steps too. -/
theorem completesIn.mono {P : State → Prop} (h : completesIn n i s P) (hend : ∀ t, P t → t.eng.busy = false)
    (hm : n ≤ m) : completesIn m i s P := by
  obtain ⟨t, ht, hP⟩ := h
  obtain ⟨k, rfl⟩ := Nat.exists_eq_add_of_le hm
  exact ⟨t, by rw [runExec_add ht, runExec_done (hend t hP)], hP⟩

/-- Every element of the body of command i takes one step, moves on, and leads from I at it to I at the next one. -/
def WalksBody (i : Instr) (n : Nat) (I : Nat → State → Prop) : Prop :=
  ∀ t p, t.inBody p → p.elem < n → I p.elem t → completes i t fun u => movedOn t u n ∧ I (p.elem + 1) u

variable {I : Nat → State → Prop}

/-- From an element of its body a command walks to its end. -/
theorem WalksBody.fromElem (h : WalksBody i n I) (hin : s.inBody p) (hm : p.elem + (m + 1) = n) (hI : I p.elem s) :
    completesIn (m + 1) i s fun t => t.endedWith .ok 0 0 ∧ I n t := by
  induction m generalizing s p with
  | zero =>
    obtain ⟨t, ht, hmoved, hnext⟩ := h s p hin (by omega) hI
    rw [movedOn, hin.position, if_neg (by omega)] at hmoved
    exact ⟨t, by rw [runExec_step hin.1 ht, runExec], hmoved, hm ▸ hnext⟩
  | succ m ih =>
    obtain ⟨t, ht, hmoved, hnext⟩ := h s p hin (by omega) hI
    rw [movedOn, hin.position, if_pos (by omega)] at hmoved
    obtain ⟨⟨hbusy, -⟩, hstep⟩ := hmoved
    obtain ⟨u, hu, hend⟩ := ih (s := t) (p := { p with elem := p.elem + 1, req := 0 })
      ⟨hbusy.trans hin.1, hstep, hin.2.2⟩ (by show p.elem + 1 + (m + 1) = n; omega) hnext
    exact ⟨u, by rw [runExec_step hin.1 ht, hu], hend⟩

/-- Command i, run from its issue at s for m steps, is past its checks, at the first of n elements or at its end, with
nothing changed but STATUS and the position (R127, R150). -/
def entersBody (i : Instr) (s : State) (m n : Nat) : Prop :=
  completesIn m i s fun t => entered s t n ∧ onlyStatusChanged s t

/-- From its issue a command walks to its end. -/
theorem WalksBody.run (h : WalksBody i n I) (hs : s.atStart) (henter : entersBody i s m n)
    (hI : ∀ t, onlyStatusChanged s t → I 0 t) :
    completesIn (m + n) i s fun t => t.endedWith .ok 0 0 ∧ I n t := by
  obtain ⟨t, ht, hentered, honly⟩ := henter
  cases n with
  | zero => exact ⟨t, ht, hentered, hI t honly⟩
  | succ n =>
    obtain ⟨⟨hbusy, -⟩, q, hq, hphase, helem, -⟩ := hentered
    obtain ⟨u, hu, hend⟩ := h.fromElem (s := t) (p := q) (m := n) ⟨hbusy.trans hs.1, hq, hphase⟩ (by omega)
      (helem ▸ hI t honly)
    exact ⟨u, by rw [runExec_add ht, hu], hend⟩

/-! ## The four commands as walks -/

/-- PREPARE_ALL and ENABLE_ALL start the clocks of a list past guard loops that no step of theirs moves (R151, R152). -/
structure StartsClocks (i : Instr) (f : LifecycleFlag) (op : ClkOp) (code : Code) (l : List Consumer) (cfg : Config) :
    Prop where
  exec_eq     : ∀ t, t.cfg = cfg →
    exec i t = t.byGuards none (guardsOf t i) l.length fun x => x.startElem f op code l
  guards_kept : ∀ t u, exec i t = .next u → guardsOf u i = guardsOf t i
  guards_same : ∀ t u : State, u.cfg = t.cfg → u.clk = t.clk → (∀ c, u.codec c = t.codec c) →
    guardsOf u i = guardsOf t i
  failure     : code ≠ .ok
  stores      : storesNothing i

/-- DISABLE_ALL and UNPREPARE_ALL stop the clocks of a list (R153, R154). -/
def StopsClocks (i : Instr) (f : LifecycleFlag) (op : ClkOp) (marks : Bool) (l : List Consumer) (cfg : Config) : Prop :=
  ∀ t p, t.cfg = cfg → t.inBody p → exec i t = .next (t.stopElem f op marks l)

/-- The guards of ENABLE_ALL read `prepared` and the sysclk associations. -/
theorem enableGuards_congr (g : Group) (hcfg : t.cfg = s.cfg) (hclk : ∀ k, t.clk.prepared k = s.clk.prepared k)
    (hcodec : ∀ c, t.codec c = s.codec c) : enableGuards g t = enableGuards g s := by
  simp only [enableGuards, State.sysclkChecks, hcfg, hclk, hcodec]

theorem prepareAll_startsClocks (g : Group) (cfg : Config) :
    StartsClocks (.prepareAll g) .prepared .prepare .prepareError (groupList cfg g) cfg where
  exec_eq t hcfg := by
    subst hcfg
    rw [exec, execPrepareAll, State.byPhase_eq, State.byGuards_eq]
    cases t.position.phase <;> rfl
  guards_kept _ _ _ := rfl
  guards_same _ _ _ _ _ := rfl
  failure := nofun
  stores := trivial

theorem enableAll_startsClocks (g : Group) (cfg : Config) :
    StartsClocks (.enableAll g) .enabled .enable .enableError (groupList cfg g) cfg where
  exec_eq t hcfg := by
    subst hcfg
    rfl
  guards_kept t u h := by
    obtain ⟨hcodec, -⟩ := exec_of_storesNothing h trivial
    obtain ⟨-, hprepared⟩ := exec_enabled_frame (.inl rfl) h
    exact enableGuards_congr g (exec_shape h).hostSideKept.1 hprepared hcodec
  guards_same t u hcfg hclk hcodec := enableGuards_congr g hcfg (fun k => by rw [hclk]) hcodec
  failure := nofun
  stores := trivial

theorem disableAll_stopsClocks (g : Group) (cfg : Config) :
    StopsClocks (.disableAll g) .enabled .disable true (groupList cfg g).reverse cfg :=
  fun _ _ hcfg hin => hcfg ▸ execDisableAll_body g hin

theorem unprepareAll_stopsClocks (g : Group) (cfg : Config) :
    StopsClocks (.unprepareAll g) .prepared .unprepare false (groupList cfg g).reverse cfg :=
  fun _ _ hcfg hin => hcfg ▸ execUnprepareAll_body g hin

/-! ### From the issue to the body -/

theorem StartsClocks.hasGuards (h : StartsClocks i f op code l s.cfg) (hs : s.atStart) :
    HasGuards i s (guardsOf s i) l.length where
  atStart := hs
  enter := by rw [h.exec_eq s rfl, State.byGuards_start _ _ _ _ hs]; rfl
  step q hq := by
    have hsame := h.guards_same s (s.goTo fun _ => q) rfl rfl fun c => s.goTo_codec _ c
    rw [h.exec_eq (s.goTo fun _ => q) rfl, hsame, State.byGuards_eq, State.goTo_position, hq]

theorem StartsClocks.entersBody (h : StartsClocks i f op code l s.cfg) (hs : s.atStart)
    (hpass : ∀ x ∈ guardsOf s i, x.fails = false) : entersBody i s (1 + (guardsOf s i).length) l.length :=
  ((h.hasGuards hs).passes hpass).2

theorem disableAll_entersBody (g : Group) (hs : s.atStart) :
    entersBody (.disableAll g) s 1 (groupList s.cfg g).reverse.length :=
  ⟨(s.goTo fun p => { p with up := s.anyUp }).enterBody (groupList s.cfg g).reverse.length,
    by rw [runExec_step hs.1 (execDisableAll_start g hs), runExec], State.enterBody_entered_of ⟨rfl, rfl, rfl, rfl⟩ _,
    (s.goTo_onlyStatusChanged _).trans (State.enterBody_onlyStatusChanged _ _)⟩

theorem unprepareAll_entersBody (g : Group) (hs : s.atStart)
    (hclear : ∀ k ∈ groupList s.cfg g, s.clk.enabled k = false) :
    entersBody (.unprepareAll g) s (1 + (groupList s.cfg g).reverse.length) (groupList s.cfg g).reverse.length := by
  have hchecks : checksPass (.unprepareAll g) s := hclear
  obtain ⟨-, henter⟩ := (hasGuards_unprepareAll g hs).passes hchecks.guards
  simpa [entersBody, unprepareGuards] using henter

/-! ## Walks without a request (R158, R159) -/

theorem StartsClocks.exec_body (h : StartsClocks i f op code l s.cfg) (hin : s.inBody p) :
    exec i s = .next (s.startElem f op code l) := by
  rw [h.exec_eq s rfl, State.byGuards_body _ _ _ _ hin]

/-- Where every clock is started already, only the position moves. -/
theorem StartsClocks.walk_skips (h : StartsClocks i f op code l s.cfg) (hset : ∀ k ∈ l, s.clk.flag f k = true) :
    WalksBody i l.length fun _ t => onlyStatusChanged s t := by
  intro t p hin hlt honly
  obtain ⟨hcfg, -, hclk, -⟩ := honly.kept
  obtain ⟨hmoved, hstep⟩ := State.startElem_skipped (s := t) (f := f) (op := op) (code := code)
    (by rw [hin.position]; exact List.getElem?_eq_getElem hlt) (hclk ▸ hset _ (List.getElem_mem hlt))
  exact ⟨_, StartsClocks.exec_body (hcfg ▸ h) hin, hmoved, honly.trans hstep⟩

/-- Where every clock is stopped already, only the position moves. -/
theorem StopsClocks.walk_skips (h : StopsClocks i f op marks l s.cfg) (hclear : ∀ k ∈ l, s.clk.flag f k = false) :
    WalksBody i l.length fun _ t => onlyStatusChanged s t := by
  intro t p hin hlt honly
  obtain ⟨hcfg, -, hclk, -⟩ := honly.kept
  obtain ⟨hmoved, hstep⟩ := State.stopElem_skipped (s := t) (f := f) (op := op) (marks := marks)
    (by rw [hin.position]; exact List.getElem?_eq_getElem hlt) (hclk ▸ hclear _ (List.getElem_mem hlt))
  exact ⟨_, h t p hcfg hin, hmoved, honly.trans hstep⟩

/-- Settles O49: nothing is due on idle clocks, so the walks only move the position (`StopsClocks.walk_skips`). -/
theorem teardownOfIdleClocksIsANoOp : Obligations.TeardownOfIdleClocksIsANoOp := by
  unfold Obligations.TeardownOfIdleClocksIsANoOp
  intro s hs
  refine ⟨fun g hidle => ?_, fun hgp hge => ?_⟩
  · have hflag (f : LifecycleFlag) (k : Consumer) (hk : k ∈ groupList s.cfg g) : s.clk.flag f k = false := by
      rw [ClockState.flag, hidle k hk]
      cases f <;> rfl
    have hclear (f : LifecycleFlag) (k : Consumer) (hk : k ∈ (groupList s.cfg g).reverse) : s.clk.flag f k = false :=
      hflag f k (List.mem_reverse.mp hk)
    obtain ⟨t, ht, hend, honly⟩ := ((disableAll_stopsClocks g s.cfg).walk_skips (hclear .enabled)).run hs
      (disableAll_entersBody g hs) fun _ h => h
    obtain ⟨u, hu, hend', honly'⟩ := ((unprepareAll_stopsClocks g s.cfg).walk_skips (hclear .prepared)).run hs
      (unprepareAll_entersBody g hs (hflag .enabled)) fun _ h => h
    rw [List.length_reverse] at ht hu
    obtain ⟨-, -, hclk, -, -, hhistory, -⟩ := honly.kept
    obtain ⟨-, -, hclk', -, -, hhistory', -⟩ := honly'.kept
    exact ⟨⟨t, ht, hend, hhistory, hclk⟩, u, hu, hend', hhistory', hclk'⟩
  · exact release_idle_run hs hgp hge

/-! ## A start command that ended OK (R158) -/

/-- What holds of the first e elements and of the next one holds of the first e + 1. -/
theorem forall_mem_take_succ {α : Type} {l : List α} {e : Nat} {a : α} {q : α → Prop} (ha : l[e]? = some a)
    (htake : ∀ y ∈ l.take e, q y) (hq : q a) : ∀ y ∈ l.take (e + 1), q y := by
  rw [List.take_add_one, ha]
  exact List.forall_mem_append.mpr ⟨htake, by simpa using hq⟩

/-- Where a start command is: at its start; at a guard, those before it passed; at an element of its body, all guards
passed and the clocks before it started; or at an end, which is OK only where all guards passed and all clocks are
started. -/
inductive Starting (f : LifecycleFlag) (l : List Consumer) (gs : List GuardCheck) (t : State) : Prop
  | start (busy : t.eng.busy = true) (phase : t.position.phase = .start)
  | guards (busy : t.eng.busy = true) (phase : t.position.phase = .guards) (elem : t.position.elem < gs.length)
      (passed : ∀ x ∈ gs.take t.position.elem, x.fails = false)
  | body (busy : t.eng.busy = true) (phase : t.position.phase = .body) (elem : t.position.elem < l.length)
      (passed : ∀ x ∈ gs, x.fails = false) (started : ∀ k ∈ l.take t.position.elem, t.clk.flag f k = true)
  | ended (idle : t.eng.busy = false)
      (done : t.win.code = .ok → (∀ x ∈ gs, x.fails = false) ∧ ∀ k ∈ l, t.clk.flag f k = true)

namespace Starting

variable {gs : List GuardCheck} {x : State}

theorem enterBody (hbusy : x.eng.busy = true) (hpass : ∀ y ∈ gs, y.fails = false) :
    Starting f l gs (x.enterBody l.length) := by
  refine State.enterBody_elim (P := Starting f l gs) (fun h0 => .ended rfl fun _ => ⟨hpass, ?_⟩) fun h0 =>
    .body hbusy rfl (Nat.pos_of_ne_zero h0) hpass nofun
  rw [List.eq_nil_of_length_eq_zero h0]
  exact nofun

theorem enterGuards (hbusy : x.eng.busy = true) : Starting f l gs (x.enterGuards gs l.length) :=
  State.enterGuards_elim (P := Starting f l gs) (fun hnil => enterBody hbusy (hnil ▸ nofun))
    fun hne => .guards hbusy rfl (List.length_pos_of_ne_nil hne) nofun

theorem guardStep (hbusy : x.eng.busy = true) (hphase : x.position.phase = .guards)
    (helem : x.position.elem < gs.length) (hpass : ∀ y ∈ gs.take x.position.elem, y.fails = false) :
    Starting f l gs (x.guardStep gs l.length) := by
  refine State.guardStep_elim (P := Starting f l gs) (fun _ _ _ => .ended rfl nofun)
    (fun y hy hok hmore => .guards hbusy hphase hmore (forall_mem_take_succ hy hpass hok))
    (fun y hy hok hlast => enterBody hbusy ?_) fun hpast => ?_
  · have hall := forall_mem_take_succ (q := fun y => y.fails = false) hy hpass hok
    rwa [List.take_of_length_le (by omega)] at hall
  · exact absurd (List.getElem?_eq_none_iff.mp hpast) (Nat.not_le_of_lt helem)

/-- An element that is started moves the body on. -/
theorem nextElem (hbusy : x.eng.busy = true) (hphase : x.position.phase = .body) (hpass : ∀ y ∈ gs, y.fails = false)
    (hk : l[x.position.elem]? = some k) (hstarted : ∀ k ∈ l.take x.position.elem, x.clk.flag f k = true)
    (hset : x.clk.flag f k = true) : Starting f l gs (x.nextElem l.length State.finish) := by
  have hall := forall_mem_take_succ (q := fun k => x.clk.flag f k = true) hk hstarted hset
  refine State.nextElem_elim (P := Starting f l gs) (fun hmore => .body hbusy hphase hmore hpass hall) fun hlast =>
    .ended rfl fun _ => ⟨hpass, ?_⟩
  rwa [List.take_of_length_le (by omega)] at hall

theorem startElem (hcode : code ≠ .ok) (hbusy : x.eng.busy = true) (hphase : x.position.phase = .body)
    (helem : x.position.elem < l.length) (hpass : ∀ y ∈ gs, y.fails = false)
    (hstarted : ∀ k ∈ l.take x.position.elem, x.clk.flag f k = true) : Starting f l gs (x.startElem f op code l) := by
  refine State.atElem_elim (P := Starting f l gs) (fun k hk => ?_) fun hpast => ?_
  · split
    · next hset => exact nextElem hbusy hphase hpass hk hstarted hset
    · refine State.startReq_elim (P := Starting f l gs) (fun e => .body hbusy hphase helem hpass hstarted)
        (fun e => nextElem hbusy hphase hpass hk (fun k' hk' => ?_) ?_) fun e => .ended rfl fun hok => absurd hok hcode
      · simp [hstarted k' hk']
      · simp
  · exact absurd (List.getElem?_eq_none_iff.mp hpast) (Nat.not_le_of_lt helem)

end Starting

/-- A property that every step keeps holds at the end of a run. -/
theorem runExec_keeps {P : State → Prop} (hstep : ∀ s t, s.eng.busy = true → P s → exec i s = .next t → P t)
    (h : runExec i n s = .next t) (hP : P s) : P t := by
  induction n generalizing s with
  | zero =>
    rw [runExec, Host.Outcome.next.injEq] at h
    exact h ▸ hP
  | succ n ih =>
    by_cases hbusy : s.eng.busy = true
    · obtain ⟨u, hu⟩ := exec_isNext i s
      rw [runExec_step hbusy hu] at h
      exact ih h (hstep s u hbusy hP hu)
    · rw [runExec_done (by simpa using hbusy), Host.Outcome.next.injEq] at h
      exact h ▸ hP

/-- The parameters and the guards are as in s, and the command is where `Starting` says. -/
def startingFrom (i : Instr) (f : LifecycleFlag) (l : List Consumer) (s t : State) : Prop :=
  t.cfg = s.cfg ∧ guardsOf t i = guardsOf s i ∧ Starting f l (guardsOf s i) t

theorem StartsClocks.startingFrom_step {u : State} (h : StartsClocks i f op code l s.cfg) (hbusy : t.eng.busy = true)
    (ht : startingFrom i f l s t) (hexec : exec i t = .next u) : startingFrom i f l s u := by
  obtain ⟨hcfg, hguards, hstarting⟩ := ht
  refine ⟨(exec_shape hexec).hostSideKept.1.trans hcfg, (h.guards_kept t u hexec).trans hguards, ?_⟩
  rw [h.exec_eq t hcfg, State.byGuards_eq, hguards, Host.Outcome.next.injEq] at hexec
  subst hexec
  cases hstarting with
  | start _ phase => rw [phase]; exact .enterGuards hbusy
  | guards _ phase elem passed => rw [phase]; exact .guardStep hbusy phase elem passed
  | body _ phase elem passed started => rw [phase]; exact .startElem h.failure hbusy phase elem passed started
  | ended idle _ => exact nomatch hbusy.symm.trans idle

/-- A start command repeated after an end OK issues no request and ends OK (R158). -/
theorem StartsClocks.repeated {w : Word} (h : StartsClocks i f op code l s.cfg) (hs : s.atStart)
    (hrun : runExec i m s = .next t) (hend : t.endedWith .ok 0 0) :
    completesIn (1 + (guardsOf s i).length + l.length) i (t.issue w) fun u =>
      u.endedWith .ok 0 0 ∧ u.history = t.history ∧ u.clk = t.clk := by
  obtain ⟨hcfg, hguards, hstarting⟩ := runExec_keeps (P := startingFrom i f l s)
    (fun _ _ hbusy ht hexec => h.startingFrom_step hbusy ht hexec) hrun
    ⟨rfl, rfl, .start hs.1 (by rw [hs.position]; rfl)⟩
  obtain ⟨hidle, -, hcode, -⟩ := hend
  cases hstarting with
  | start busy | guards busy | body busy => exact nomatch busy.symm.trans hidle
  | ended _ done =>
    obtain ⟨hpass, hset⟩ := done hcode
    have hsame : guardsOf (t.issue w) i = guardsOf s i :=
      (h.guards_same t (t.issue w) rfl rfl fun c => t.issue_codec w c).trans hguards
    have h' : StartsClocks i f op code l (t.issue w).cfg := hcfg ▸ h
    obtain ⟨u, hu, hend, honly⟩ := (h'.walk_skips hset).run ⟨rfl, rfl⟩ (h'.entersBody ⟨rfl, rfl⟩ (hsame ▸ hpass))
      fun _ h => h
    obtain ⟨-, -, hclk, -, -, hhistory, -⟩ := honly.kept
    exact ⟨u, hsame ▸ hu, hend, hhistory, hclk⟩

theorem enableAll_stepBound (s : State) (g : Group) : stepBound s.cfg (.enableAll g) =
    1 + (guardsOf s (.enableAll g)).length + (groupList s.cfg g).length := by
  rw [stepBound_eq]
  exact congrArg _ (Nat.mul_one _)

/-- Settles O48: at an end OK every clock is started and every guard passes (`Starting`), so that the repeated command
skips every element. -/
theorem repeatedStartCommandsIssueNothing : Obligations.RepeatedStartCommandsIssueNothing := by
  unfold Obligations.RepeatedStartCommandsIssueNothing
  intro g s t m w hs
  refine ⟨fun hrun hend => (prepareAll_startsClocks g s.cfg).repeated hs hrun hend, fun hrun hend => ?_⟩
  rw [enableAll_stepBound]
  exact (enableAll_startsClocks g s.cfg).repeated hs hrun hend

/-! ## Walks with every request answered (R160, R168) -/

/-- From c to c' the flag of the clocks of l is set to b, and nothing else of the consumer clocks changed. -/
def flagsSet (f : LifecycleFlag) (b : Bool) (l : List Consumer) (c c' : ClockState) : Prop :=
  ∀ k, c'.flags k = if k ∈ l then f.set b (c.flags k) else c.flags k

theorem flagsSet_nil (f : LifecycleFlag) (b : Bool) (c : ClockState) : flagsSet f b [] c c := fun _ => by simp

/-- One clock more. -/
theorem flagsSet.setFlag {b : Bool} {c c' : ClockState} {e : Nat} (h : flagsSet f b (l.take e) c c')
    (hk : l[e]? = some k) : flagsSet f b (l.take (e + 1)) c (c'.setFlag f k b) := by
  intro k'
  have hmem : k' ∈ l.take (e + 1) ↔ k' ∈ l.take e ∨ k' = k := by simp [List.take_add_one, hk]
  rw [ClockState.setFlag_flags]
  by_cases heq : k' = k
  · subst heq
    rw [if_pos rfl, if_pos (hmem.mpr (.inr rfl)), h k']
    split
    · exact LifecycleFlag.set_set ..
    · rfl
  · rw [if_neg heq, h k']
    simp [hmem, heq]

/-- A flag that has the value already is as if set. -/
theorem ClockState.setFlag_eq_self {b : Bool} {c : ClockState} (h : c.flag f k = b) : c.setFlag f k b = c := by
  rw [ClockState.setFlag, LifecycleFlag.set_get h]
  cases k <;> rfl

/-- What a stop command has done before element e: its clocks are stopped, and enough answers are left. -/
structure Stopped (f : LifecycleFlag) (l : List Consumer) (r : Nat) (s : State) (e : Nat) (t : State) : Prop where
  cfg     : t.cfg = s.cfg
  flags   : flagsSet f false (l.take e) s.clk t.clk
  answers : answersGood False t (r + (l.length - e))

theorem StopsClocks.walk {r : Nat} (h : StopsClocks i f op marks l s.cfg) :
    WalksBody i l.length (Stopped f l r s) := by
  intro t p hin hlt ⟨hcfg, hflags, hans⟩
  have hk : l[p.elem]? = some l[p.elem] := List.getElem?_eq_getElem hlt
  have hk' : l[t.position.elem]? = some l[p.elem] := by rw [hin.position]; exact hk
  have hexec := h t p hcfg hin
  have hcfg' := (exec_shape hexec).hostSideKept.1.trans hcfg
  have hnext := hflags.setFlag hk
  cases hset : t.clk.flag f l[p.elem] with
  | false =>
    obtain ⟨hmoved, honly⟩ := State.stopElem_skipped (op := op) (marks := marks) hk' hset
    obtain ⟨-, -, hclk, -, -, -, -, henv, -⟩ := honly.kept
    rw [ClockState.setFlag_eq_self hset] at hnext
    exact ⟨_, hexec, hmoved, hcfg', hclk ▸ hnext, hans.congr (by rw [henv]) (by omega)⟩
  | true =>
    obtain ⟨m, hm⟩ : ∃ m, r + (l.length - p.elem) = m + 1 := ⟨r + (l.length - (p.elem + 1)), by omega⟩
    obtain ⟨d, rest, hd, -, hrest⟩ := (hm ▸ hans).next
    obtain ⟨-, hclk, -, -, hmoved⟩ := State.stopElem_answered (op := op) (marks := marks) hk' hset ⟨rest, hd⟩
    refine ⟨_, hexec, hmoved, hcfg', hclk ▸ hnext, (hrest _ ?_).congr rfl (by omega)⟩
    rw [State.stopElem_some hk' hset hd]
    simp

/-- A stop command whose requests are answered ends OK with its clocks stopped. -/
theorem StopsClocks.run {r : Nat} (h : StopsClocks i f op marks l s.cfg) (hs : s.atStart)
    (henter : entersBody i s m l.length) (hans : answersGood False s (r + l.length)) :
    completesIn (m + l.length) i s fun t => t.endedWith .ok 0 0 ∧ Stopped f l r s l.length t :=
  h.walk.run hs henter fun t honly => by
    obtain ⟨hcfg, -, hclk, -, -, -, -, henv, -⟩ := honly.kept
    exact ⟨hcfg, hclk ▸ flagsSet_nil f false s.clk, hans.congr (by rw [henv]) (Nat.le_refl _)⟩

/-- What a stop command leaves of the clocks at its end. -/
theorem Stopped.flags_end {r : Nat} (h : Stopped f l r s l.length t) : flagsSet f false l s.clk t.clk := by
  simpa using h.flags

theorem groupBoth_length_le (cfg : Config) : (groupBoth cfg).length ≤ 6 := by
  unfold groupBoth groupLrclk
  cases cfg.clockShape <;> decide

/-- Settles O47: the two walks stop every present clock (`StopsClocks.run`), the absent ones are idle from the start,
and the gate is idle after `release_run`. -/
theorem unwindingBringsEveryClockToIdle : Obligations.UnwindingBringsEveryClockToIdle := by
  unfold Obligations.UnwindingBringsEveryClockToIdle
  intro s w1 w2 hs habsent hcome
  have hlen := groupBoth_length_le s.cfg
  have hlen' : (groupList s.cfg .both).reverse.length = (groupBoth s.cfg).length := List.length_reverse
  have hans := (answersCome_iff s 14).mp hcome
  obtain ⟨t, ht, hend, hstopped⟩ := ((disableAll_stopsClocks .both s.cfg).run (r := 8) hs (disableAll_entersBody _ hs)
    (hans.congr rfl (by omega))).mono (m := 7) (fun _ h => h.1.1) (by omega)
  have hcfg : (t.issue w1).cfg = s.cfg := hstopped.cfg
  have hclear : ∀ k ∈ groupList (t.issue w1).cfg .both, (t.issue w1).clk.enabled k = false := fun k hk =>
    congrArg Lifecycle.enabled ((hstopped.flags_end k).trans (if_pos (List.mem_reverse.mpr (hcfg ▸ hk))))
  have henter := unprepareAll_entersBody .both ⟨rfl, rfl⟩ hclear
  rw [hcfg] at henter
  have hstops : StopsClocks (.unprepareAll .both) .prepared .unprepare false
      (groupList s.cfg .both).reverse (t.issue w1).cfg := by
    rw [hcfg]
    exact unprepareAll_stopsClocks .both s.cfg
  obtain ⟨u, hu, hend', hstopped'⟩ := (hstops.run (r := 2) ⟨rfl, rfl⟩ henter
    (hstopped.answers.congr rfl (by omega))).mono (m := 13) (fun _ h => h.1.1) (by omega)
  obtain ⟨v, hv, hend'', hclk⟩ := release_run (s := u.issue w2) ⟨rfl, rfl⟩ (hstopped'.answers.congr rfl (by omega))
  refine ⟨t, u, v, ht, hend, hu, hend', hv, hend'', fun k => ?_, by rw [hclk], by rw [hclk], by rw [hclk]⟩
  have hv : v.clk.flags k = u.clk.flags k := by
    rw [hclk]
    cases k <;> rfl
  rw [hv, hstopped'.flags_end k, State.issue_clk, hstopped.flags_end k]
  split
  · rfl
  · next hk =>
    have hpresent := mt (mem_groupBoth s.cfg k).mpr (mt List.mem_reverse.mpr hk)
    exact habsent.1 k (by simpa using hpresent)

/-- What a start command has done before element e, every answer `ok` and no clock started at its issue: its clocks are
started, each by one request, and enough answers are left. -/
structure Started (f : LifecycleFlag) (op : ClkOp) (l : List Consumer) (r : Nat) (s : State) (e : Nat) (t : State) :
    Prop where
  cfg     : t.cfg = s.cfg
  codec   : ∀ c, t.codec c = s.codec c
  flags   : flagsSet f true (l.take e) s.clk t.clk
  events  : recorded s t ((l.take e).map fun k => .clkReq op (.consumer k) true)
  answers : answersGood True t (r + (l.length - e))

/-- What a start command leaves of the clocks at its end. -/
theorem Started.flags_end {r : Nat} (h : Started f op l r s l.length t) : flagsSet f true l s.clk t.clk := by
  simpa using h.flags

theorem getElem_notMem_take {α : Type} {l : List α} (hl : l.Nodup) {e : Nat} (he : e < l.length) : l[e] ∉ l.take e := by
  intro hmem
  obtain ⟨j, hj, heq⟩ := List.mem_take_iff_getElem.mp hmem
  have := (hl.getElem_inj_iff).mp heq
  omega

theorem StartsClocks.walk {r : Nat} (h : StartsClocks i f op code l s.cfg) (hl : l.Nodup)
    (hclear : ∀ k ∈ l, s.clk.flag f k = false) : WalksBody i l.length (Started f op l r s) := by
  intro t p hin hlt ⟨hcfg, hcodec, hflags, hevents, hans⟩
  have hk : l[p.elem]? = some l[p.elem] := List.getElem?_eq_getElem hlt
  have hk' : l[t.position.elem]? = some l[p.elem] := by rw [hin.position]; exact hk
  have hdue : t.clk.flag f l[p.elem] = false := by
    rw [ClockState.flag, hflags, if_neg (getElem_notMem_take hl hlt)]
    exact hclear _ (List.getElem_mem hlt)
  have hexec := StartsClocks.exec_body (hcfg ▸ h) hin
  obtain ⟨hcodec', -⟩ := exec_of_storesNothing hexec h.stores
  obtain ⟨m, hm⟩ : ∃ m, r + (l.length - p.elem) = m + 1 := ⟨r + (l.length - (p.elem + 1)), by omega⟩
  obtain ⟨d, rest, hd, hok, hrest⟩ := (hm ▸ hans).next
  obtain ⟨hevent, -, hthen⟩ := State.startElem_answered (op := op) (code := code) hk' hdue ⟨rest, hd⟩
  rw [if_pos (hok trivial)] at hthen
  obtain ⟨hclk, hmoved⟩ := hthen
  refine ⟨_, hexec, hmoved, (exec_shape hexec).hostSideKept.1.trans hcfg, fun c => (hcodec' c).trans (hcodec c),
    hclk ▸ hflags.setFlag hk, ?_, (hrest _ ?_).congr rfl (by omega)⟩
  · rw [recorded, hevent, hevents, List.take_add_one, hk, hok trivial, List.map_append, List.append_assoc]
    rfl
  · rw [State.startElem_some hk' hdue hd, if_pos (hok trivial)]
    simp

/-- A start command whose guards pass and whose requests are answered `ok` ends OK, each clock started once. -/
theorem StartsClocks.run {r : Nat} (h : StartsClocks i f op code l s.cfg) (hs : s.atStart) (hl : l.Nodup)
    (hpass : ∀ x ∈ guardsOf s i, x.fails = false) (hclear : ∀ k ∈ l, s.clk.flag f k = false)
    (hans : answersGood True s (r + l.length)) :
    completesIn (1 + (guardsOf s i).length + l.length) i s fun t =>
      t.endedWith .ok 0 0 ∧ Started f op l r s l.length t :=
  (h.walk hl hclear).run hs (h.entersBody hs hpass) fun t honly => by
    obtain ⟨hcfg, -, hclk, hcodec, -, hhistory, -, henv, -⟩ := honly.kept
    exact ⟨hcfg, hcodec, hclk ▸ flagsSet_nil f true s.clk, by simp [recorded, hhistory],
      hans.congr (by rw [henv]) (Nat.le_refl _)⟩

theorem groupList_nodup (cfg : Config) (g : Group) : (groupList cfg g).Nodup := by
  unfold groupList groupBoth groupLrclk
  cases g <;> cases cfg.clockShape <;> decide

/-- Settles O50: two runs of `StartsClocks.run`; the first leaves each clock prepared and not enabled, as the second
asks. -/
theorem prepareThenEnableStartsEachClockOnce : Obligations.PrepareThenEnableStartsEachClockOnce := by
  unfold Obligations.PrepareThenEnableStartsEachClockOnce
  intro g s w hs hidle hready hok
  have hnodup := groupList_nodup s.cfg g
  have hclear : ∀ k ∈ groupList s.cfg g, s.clk.flag .prepared k = false := fun k hk => by
    rw [ClockState.flag, hidle k hk]; rfl
  obtain ⟨t, ht, hend, hstarted⟩ := (prepareAll_startsClocks g s.cfg).run (r := (groupList s.cfg g).length) hs hnodup
    nofun hclear (((answersOk_iff s _).mp hok).congr rfl (by omega))
  have hcfg : (t.issue w).cfg = s.cfg := hstarted.cfg
  have hflags : ∀ k ∈ groupList s.cfg g, t.clk.flags k = ⟨true, false⟩ := fun k hk => by
    rw [hstarted.flags_end k, if_pos hk, hidle k hk]; rfl
  have hchecks : checksPass (.enableAll g) (t.issue w) := by
    refine ⟨fun c hc => ?_, fun k hk => ?_⟩
    · rw [State.issue_codec, hstarted.codec]
      exact hready c ((mem_presentCodecs s.cfg c).mp (hcfg ▸ hc))
    · exact congrArg Lifecycle.prepared (hflags k (hcfg ▸ hk))
  have hstarts : StartsClocks (.enableAll g) .enabled .enable .enableError (groupList s.cfg g) (t.issue w).cfg := by
    rw [hcfg]
    exact enableAll_startsClocks g s.cfg
  obtain ⟨u, hu, hend', hstarted'⟩ := hstarts.run (r := 0) ⟨rfl, rfl⟩ hnodup hchecks.guards
    (fun k hk => congrArg Lifecycle.enabled (hflags k hk)) (hstarted.answers.congr rfl (by omega))
  have hbound := enableAll_stepBound (t.issue w) g
  rw [hcfg] at hbound
  refine ⟨t, u, ht, hend, hbound ▸ hu, hend', ?_, fun k hk => ?_⟩
  · have hevents := hstarted'.events
    rw [recorded, State.issue_history, hstarted.events, List.take_length] at hevents
    rw [recorded, hevents, List.append_assoc]
  · rw [hstarted'.flags_end k, if_pos hk, State.issue_clk, hflags k hk]; rfl

end Sys2Proof.Machine
end

section
/-! PROOFS. A register access with its answer at hand (R142 to R144): what a write leaves of its codec, whatever the
command, and the element of a command that read-modify-writes one register of each of its codecs. -/
namespace Sys2Proof.Machine

variable {i : Instr} {s t : State} {c : CodecId} {a v : Nat} {d : Answer} {rest : List (Option Answer)} {ok : Bool}

/-! ## What a write leaves of its codec (R142) -/

/-- A write answered `ok` keeps the sysclk association. -/
theorem CodecState.afterWrite_ok_sysclk (cfg : Config) (a v : Nat) (x : CodecState) :
    (CodecState.afterWrite cfg a v true x).sysclkValid = x.sysclkValid ∧
      (CodecState.afterWrite cfg a v true x).sysclk = x.sysclk :=
  ⟨rfl, rfl⟩

/-- A failed write of ADDR_FMTCTL clears the sysclk association. -/
theorem CodecState.afterWrite_fail_sysclk (cfg : Config) (v : Nat) (x : CodecState) :
    (CodecState.afterWrite cfg cfg.addrFmtctl v false x).sysclkValid = false ∧
      (CodecState.afterWrite cfg cfg.addrFmtctl v false x).sysclk = 0 :=
  ⟨if_pos rfl, if_pos rfl⟩

/-- What a step that wrote a register leaves of the shadows and the power state. -/
theorem WroteRegister.registerWritten (h : WroteRegister i s t c a v d) (hcfg : t.cfg = s.cfg)
    (hwf : Memory.wf (shadowDefault s.cfg) (s.codec c).shadow) : registerWritten s t c a v d.ok := by
  have hshadow := h.shadow_eq hcfg hwf
  refine ⟨by simp [hshadow], fun c' a' hne => ?_, ?_⟩
  · rw [hshadow, if_neg]
    rintro ⟨rfl, rfl⟩
    exact hne rfl
  · rw [h.codec, if_pos rfl, (afterAnswer_kept _ _ _ _).1, CodecState.afterWrite_pd]
    by_cases ha : a = s.cfg.addrFmtctl <;> cases d.ok <;> simp [ha]

/-- A step that recorded a write made it, and did to the codec what R142 says and then what its command adds. -/
theorem exec_wrote (h : exec i s = .next t) (hrec : recorded s t [.memWrite c a v ok]) (hsound : shadowSound s c) :
    registerWritten s t c a v ok ∧
      t.codec c = afterAnswer i s ok (CodecState.afterWrite s.cfg a v ok (s.codec c)) := by
  obtain ⟨d, rfl, hw⟩ := (exec_registers h).wrote hrec
  exact ⟨hw.registerWritten (exec_shape h).hostSideKept.1 hsound.1, by rw [hw.codec, if_pos rfl]⟩

/-! ## A write and its answer -/

/-- The state once the write of v to register a of codec c has its answer d; `rest` are the answers after it. -/
def State.wrote (s : State) (c : CodecId) (a v : Nat) (d : Answer) (rest : List (Option Answer)) : State :=
  ({ s with env := { s.env with answers := rest } } : State).afterWriteReg c a v d

@[simp] theorem State.wrote_cfg : (s.wrote c a v d rest).cfg = s.cfg := rfl
@[simp] theorem State.wrote_ref : (s.wrote c a v d rest).ref = s.ref.write s.cfg c a v d := rfl
@[simp] theorem State.wrote_history : (s.wrote c a v d rest).history = s.history ++ [.memWrite c a v d.ok] := rfl
@[simp] theorem State.wrote_position : (s.wrote c a v d rest).position = s.position := rfl
@[simp] theorem State.wrote_answers : (s.wrote c a v d rest).env.answers = rest := rfl

theorem State.writeReg_wrote {cont : Bool → State → State} (h : s.env.answers = some d :: rest) :
    s.writeReg c a v cont = cont d.ok (s.wrote c a v d rest) := State.writeReg_some h

/-- A step that makes a write, which is answered: `ok` goes on with k, a failure ends the command (R142). -/
theorem completes_wrote {k : State → State} {P : State → Prop} (hsound : shadowSound s c)
    (hexec : exec i s = .next (
      if d.ok then k (s.wrote c a v d rest) else (s.wrote c a v d rest).writeError c a))
    (hk : (k (s.wrote c a v d rest)).history = (s.wrote c a v d rest).history) (hP : P (k (s.wrote c a v d rest))) :
    completes i s fun t =>
      recorded s t [.memWrite c a v d.ok] ∧ registerWritten s t c a v d.ok ∧
      t.codec c = afterAnswer i s d.ok (CodecState.afterWrite s.cfg a v d.ok (s.codec c)) ∧
      if d.ok then P t else t.endedWith .registerWriteError (codecNum c) a := by
  cases hd : d.ok with
  | true =>
    rw [if_pos hd] at hexec
    have hrec : recorded s (k (s.wrote c a v d rest)) [.memWrite c a v true] := by rw [recorded, hk, ← hd]; rfl
    obtain ⟨hreg, hcodec⟩ := exec_wrote hexec hrec hsound
    exact ⟨_, hexec, hrec, hreg, hcodec, hP⟩
  | false =>
    rw [if_neg (by simp [hd])] at hexec
    have hrec : recorded s ((s.wrote c a v d rest).writeError c a) [.memWrite c a v false] := by
      rw [recorded, ← hd]; rfl
    obtain ⟨hreg, hcodec⟩ := exec_wrote hexec hrec hsound
    exact ⟨_, hexec, hrec, hreg, hcodec, State.raise_endedWith _ _ _ _⟩

/-! ## A read and its answer -/

/-- The state once the read of register a of codec c has its answer v; `rest` are the answers after it. -/
def State.sawRead (s : State) (c : CodecId) (a : Nat) (v : Option Nat) (rest : List (Option Answer)) : State :=
  ({ s with env := { s.env with answers := rest } } : State).record (.memRead c a v)

theorem State.readReg_sawRead {cont : Nat → State → State} (h : s.env.answers = some d :: rest) :
    s.readReg c a cont =
      if readOk s d then cont (readBack s c a d) (s.sawRead c a (some (readBack s c a d)) rest)
      else (s.sawRead c a none rest).raise .registerReadError (codecNum c) a := State.readReg_some h

/-! ## A read-modify-write of each codec (R143) -/

/-- The bits of R143 make the value. -/
theorem isRmwValue.eq {cfg : Config} {base clear set : Nat} (h : isRmwValue cfg base clear set v) :
    v = rmwValue cfg base clear set :=
  Nat.eq_of_testBit_eq fun i => (h i).trans (rmwValue_testBit cfg base clear set i).symm

/-- One element of SET_FMT_SYSCLK, POWER_UP or WRITE_SYNCED over the codecs l (R188, R189, R194): a read-modify-write of
the register at `addr`; where it is answered `ok`, the codec takes the change f with the latched rate. -/
def State.rmwElem (s : State) (l : List CodecId) (addr : Config → Nat) (clear set : Nat)
    (f : Word → CodecState → CodecState) : State :=
  s.atElem l fun c => s.rmw c (addr s.cfg) clear set fun ok x =>
    if ok then (x.onCodec c (f x.eng.cur.arg0)).nextElem l.length State.finish else x.writeError c (addr x.cfg)

theorem State.onCodec_id (s : State) (c : CodecId) : s.onCodec c id = s := by
  cases c <;> rfl

section RmwElem

variable {l : List CodecId} {addr : Config → Nat} {clear set base : Nat} {f : Word → CodecState → CodecState}
  (hc : l[s.position.elem]? = some c)
include hc

/-- Where the shadow is unknown the command ends (R143). -/
theorem State.rmwElem_unknown (hbase : s.shadow c (addr s.cfg) = none) :
    s.rmwElem l addr clear set f = s.raise .stateUnknown (codecNum c) (addr s.cfg) := by
  rw [State.rmwElem, State.atElem_some hc, State.rmw_unknown hbase]

/-- Where it is known the write is made (R143). -/
theorem State.rmwElem_some (hbase : s.shadow c (addr s.cfg) = some base) (hans : s.env.answers = some d :: rest) :
    s.rmwElem l addr clear set f =
      if d.ok then
        ((s.wrote c (addr s.cfg) (rmwValue s.cfg base clear set) d rest).onCodec c (f s.eng.cur.arg0)).nextElem
          l.length State.finish
      else (s.wrote c (addr s.cfg) (rmwValue s.cfg base clear set) d rest).writeError c (addr s.cfg) := by
  rw [State.rmwElem, State.atElem_some hc, State.rmw, hbase]
  exact State.writeReg_wrote hans

/-- An answer `ok` moves on, a failure ends the command (R142). -/
theorem completes_rmwElem (hsound : shadowSound s c) (hexec : exec i s = .next (s.rmwElem l addr clear set f))
    (hbase : s.shadow c (addr s.cfg) = some base) (hv : isRmwValue s.cfg base clear set v) (hans : answered s d) :
    completes i s fun t =>
      recorded s t [.memWrite c (addr s.cfg) v d.ok] ∧ registerWritten s t c (addr s.cfg) v d.ok ∧
      t.codec c = afterAnswer i s d.ok (CodecState.afterWrite s.cfg (addr s.cfg) v d.ok (s.codec c)) ∧
      if d.ok then movedOn s t l.length else t.endedWith .registerWriteError (codecNum c) (addr s.cfg) := by
  obtain ⟨rest, hans⟩ := hans
  rw [State.rmwElem_some hc hbase hans, ← hv.eq] at hexec
  exact completes_wrote (k := fun x => (x.onCodec c (f s.eng.cur.arg0)).nextElem l.length State.finish)
    (P := fun t => movedOn s t l.length) hsound hexec (by simp) (State.nextElem_movedOn ⟨rfl, rfl, rfl, rfl⟩ rfl)

end RmwElem

end Sys2Proof.Machine
end

section
/-! PROOFS. The codec power and format commands (R187 to R190): their guards and the steps of their bodies. -/
namespace Sys2Proof.Machine

variable {s t : State} {cs : CodecSet} {c : CodecId} {p : Position} {a v r : Nat} {d : Answer}
  {rest : List (Option Answer)}

/-! ## The sysclk association over a write (R32, R142) -/

theorem sysclkKept_of_ok (h : t.codec c = CodecState.afterWrite s.cfg a v true (s.codec c)) : sysclkKept s t c := by
  rw [sysclkKept, h]
  exact CodecState.afterWrite_ok_sysclk s.cfg a v (s.codec c)

theorem sysclkCleared_of_fail (h : t.codec c = CodecState.afterWrite s.cfg s.cfg.addrFmtctl v false (s.codec c)) :
    sysclkCleared t c := by
  rw [sysclkCleared, h]
  exact CodecState.afterWrite_fail_sysclk s.cfg v (s.codec c)

theorem sysclkKept_of_ne {ok : Bool} (ha : a ≠ s.cfg.addrFmtctl)
    (h : t.codec c = CodecState.afterWrite s.cfg a v ok (s.codec c)) : sysclkKept s t c := by
  obtain ⟨-, hrate, hvalid⟩ := CodecState.afterWrite_of_ne ha v ok (s.codec c)
  rw [sysclkKept, h]
  exact ⟨hvalid, hrate⟩

/-! ## APPLY_STARTUP (R187) -/

/-- The first step of a codec clears its sysclk association (log 2). -/
theorem execApplyStartup_clear (hin : s.inBody p) (hc : (codecList cs)[p.elem]? = some c) (hreq : p.req = 0) :
    exec (.applyStartup cs) s = .next (s.onCodec c CodecState.clearSysclk).nextReq := by
  rw [← hin.position] at hc hreq
  rw [exec, execApplyStartup, State.byGuards_body _ _ _ _ hin, State.atElem_some hc, hreq]

/-- What follows a batch entry r that was written (R187). -/
def State.nextEntry (s : State) (r n : Nat) : State :=
  if r + 1 < s.cfg.startupBatch.length then s.nextReq else s.nextElem n State.finish

@[simp] theorem State.nextEntry_history (s : State) (r n : Nat) : (s.nextEntry r n).history = s.history := by
  unfold State.nextEntry; split <;> simp

/-- Every later step writes an entry of the batch. -/
theorem execApplyStartup_write (hin : s.inBody p) (hc : (codecList cs)[p.elem]? = some c) (hreq : p.req = r + 1)
    (hentry : s.cfg.startupBatch[r]? = some (a, v)) (hans : s.env.answers = some d :: rest) :
    exec (.applyStartup cs) s = .next (
      if d.ok then (s.wrote c a v d rest).nextEntry r (codecList cs).length
      else (s.wrote c a v d rest).writeError c a) := by
  rw [← hin.position] at hc hreq
  rw [exec, execApplyStartup, State.byGuards_body _ _ _ _ hin, State.atElem_some hc, hreq]
  dsimp only
  rw [hentry]
  exact congrArg Host.Outcome.next (State.writeReg_wrote hans)

theorem State.nextEntry_moves {x : State} {n : Nat} (hcfg : x.cfg = s.cfg) (hbusy : stillBusy s x)
    (hpos : x.position = s.position) :
    if r + 1 < s.cfg.startupBatch.length then toNextRequest s (x.nextEntry r n)
    else movedOn s (x.nextEntry r n) n := by
  rw [State.nextEntry, hcfg]
  split
  · exact State.nextReq_toNextRequest hbusy hpos
  · exact State.nextElem_movedOn hbusy hpos

/-- Settles O21: the guard loop is refused at the first codec that is up (`HasGuards.refusedAt`); a step of the body
clears the association or writes one entry. -/
theorem applyStartupWritesTheBatch : Obligations.ApplyStartupWritesTheBatch := by
  unfold Obligations.ApplyStartupWritesTheBatch
  intro cs s hsound
  refine ⟨by cases cs <;> rfl, fun h => ⟨fun pre c post hl hpre hc => ?_, fun hpass => ?_⟩, fun p c hin hc =>
    ⟨fun hreq => ⟨_, execApplyStartup_clear hin hc hreq, ?_⟩, fun r a v d hreq hentry hans => ?_⟩⟩
  · simpa [Guard.number] using (hasGuards_applyStartup cs h).refusedAt (before := [])
      (fun c => { fails := (s.codec c).pd == .up, id := codecNum c, guard := .codecUp })
      (List.append_nil _).symm hl nofun (fun x hx => by simpa using hpre x hx) (by simp [hc])
  · have hchecks : checksPass (.applyStartup cs) s := hpass
    simpa [startupGuards] using (hasGuards_applyStartup cs h).passes hchecks.guards
  · refine ⟨by simp [sysclkCleared], State.nextReq_toNextRequest ⟨rfl, rfl, rfl, rfl⟩ rfl, by simp [recorded],
      State.shadow_congr (s := s) (t := (s.onCodec c CodecState.clearSysclk).nextReq) rfl c (by simp), by simp⟩
  · obtain ⟨rest, hans⟩ := hans
    obtain ⟨t, hexec, hrec, hreg, hcodec, hthen⟩ := completes_wrote (k := (State.nextEntry · r (codecList cs).length))
      (P := fun t => if r + 1 < s.cfg.startupBatch.length then toNextRequest s t else movedOn s t (codecList cs).length)
      (hsound c) (execApplyStartup_write hin hc hreq hentry hans) (State.nextEntry_history ..)
      (State.nextEntry_moves rfl ⟨rfl, rfl, rfl, rfl⟩ rfl)
    refine ⟨t, hexec, hrec, hreg, ?_⟩
    cases hd : d.ok with
    | true =>
      rw [hd] at hthen hcodec
      exact ⟨sysclkKept_of_ok hcodec, hthen⟩
    | false =>
      rw [hd] at hthen hcodec
      refine ⟨hthen, ?_⟩
      split
      · next ha =>
        subst ha
        exact sysclkCleared_of_fail hcodec
      · next ha => exact sysclkKept_of_ne ha hcodec

/-! ## SET_FMT_SYSCLK (R188) -/

theorem isMasterRate_iff (hz : Word) : isMasterRate hz = true ↔ hz.toNat = 22579200 ∨ hz.toNat = 24576000 := by
  unfold isMasterRate masterSource mclk44k1 mclk48k
  split
  · next h => simp [h]
  · next h => split <;> simp [*]

theorem execSetFmtSysclk_invalid (h : s.atStart)
    (hbad : isMasterRate s.eng.cur.arg0 = true → ¬withinMask s.eng.cur.arg1.toNat s.cfg.fmtMask = true) :
    exec (.setFmtSysclk cs) s = .next (s.raise .invalidOperand 0 0) := by
  rw [exec, execSetFmtSysclk, State.byGuards_start _ _ _ _ h]
  by_cases hrate : isMasterRate s.eng.cur.arg0 = true
  · simp [hrate, hbad hrate]
  · simp [hrate]

theorem execSetFmtSysclk_body (cs : CodecSet) (hin : s.inBody p) :
    exec (.setFmtSysclk cs) s = .next (s.rmwElem (codecList cs) (·.addrFmtctl) s.cfg.fmtMask s.eng.cur.arg1.toNat
      fun rate x => x.setSysclk rate) := by
  rw [exec, execSetFmtSysclk, State.byGuards_body _ _ _ _ hin]
  rfl

/-- Settles O22: the guard loop is refused at the first codec that is not down (`HasGuards.refusedAt`); the body is
`rmwElem` over the codecs. -/
theorem setFmtSysclkWritesFormatAndRate : Obligations.SetFmtSysclkWritesFormatAndRate := by
  unfold Obligations.SetFmtSysclkWritesFormatAndRate
  intro cs s hsound
  refine ⟨by cases cs <;> rfl, fun h => ⟨fun hbad => ?_, fun hrate hmask => ?_⟩,
    fun p c base v d hin hc hbase hv hans => ?_⟩
  · refine ⟨_, execSetFmtSysclk_invalid h fun hrate hmask => ?_, s.raise_endedWith _ _ _,
      s.raise_onlyStatusChanged _ _ _⟩
    rcases hbad with ⟨h44, h48⟩ | hbits
    · exact ((isMasterRate_iff _).mp hrate).elim h44 h48
    · exact hbits (by simpa [withinMask] using hmask)
  · have hguards := hasGuards_setFmtSysclk cs h ((isMasterRate_iff _).mpr hrate) (by simpa [withinMask] using hmask)
    refine ⟨fun pre c post hl hpre hc => ?_, fun hdown => ?_⟩
    · simpa [Guard.number] using hguards.refusedAt (before := [])
        (fun c => { fails := (s.codec c).pd != .down, id := codecNum c, guard := .codecNotDown })
        (List.append_nil _).symm hl nofun (fun x hx => by simp [hpre x hx]) (by simp [hc])
    · simpa [fmtGuards] using hguards.passes (List.forall_mem_map.mpr fun c hc => by simp [hdown c hc])
  · rw [← hin.position] at hc
    obtain ⟨t, hexec, hrec, hreg, hcodec, hthen⟩ :=
      completes_rmwElem hc (hsound c) (execSetFmtSysclk_body cs hin) hbase hv hans
    refine ⟨t, hexec, hrec, hreg, ?_⟩
    cases hd : d.ok with
    | true =>
      rw [hd] at hthen hcodec
      exact ⟨by rw [sysclkIs, hcodec]; exact ⟨rfl, rfl⟩, hthen⟩
    | false =>
      rw [hd] at hthen hcodec
      exact ⟨sysclkCleared_of_fail (v := v) hcodec, hthen⟩

/-! ## POWER_UP (R189) -/

theorem execPowerUp_notReady (h : s.atStart) (hmaster : s.clk.masterClockEnabled = false) :
    exec (.powerUp cs) s = .next (s.refuse Clock.gate.id .masterNotReady) := by
  rw [exec, execPowerUp, State.byGuards_start _ _ _ _ h]
  simp [State.masterReady, hmaster]

theorem execPowerUp_body (cs : CodecSet) (hin : s.inBody p) :
    exec (.powerUp cs) s = .next (s.rmwElem (codecList cs) (·.addrFmtctl) s.cfg.pdMask 0 fun _ => id) := by
  rw [exec, execPowerUp, State.byGuards_body _ _ _ _ hin]
  simp only [State.rmwElem, State.onCodec_id]

/-- POWER_UP's check that clock k runs (R129, R133). -/
def State.clockCheck (s : State) (k : Consumer) : GuardCheck :=
  { fails := !s.clk.enabled k, id := k.id, guard := .clockNotEnabled }

/-- POWER_UP's check that codec c has a sysclk (R133). -/
def State.codecCheck (s : State) (c : CodecId) : GuardCheck :=
  { fails := !(s.codec c).sysclkValid, id := codecNum c, guard := .codecSysclkInvalid }

theorem powerUpGuards_eq (cs : CodecSet) (s : State) :
    powerUpGuards cs s = (groupBoth s.cfg).map s.clockCheck ++ (codecList cs).map s.codecCheck := rfl

/-- Settles O23: the guard loops are refused at the first check that fails (`HasGuards.refusedAt`); the body is
`rmwElem` over the codecs. -/
theorem powerUpClearsThePowerDownBit : Obligations.PowerUpClearsThePowerDownBit := by
  unfold Obligations.PowerUpClearsThePowerDownBit
  intro cs s hsound
  refine ⟨by cases cs <;> rfl, fun h => ⟨fun hmaster => ?_, fun hmaster => ?_⟩,
    fun p c base v d hin hc hbase hv hans => ?_⟩
  · exact ⟨_, execPowerUp_notReady h hmaster, s.raise_endedWith _ _ _, s.raise_onlyStatusChanged _ _ _⟩
  · have hguards := hasGuards_powerUp cs h hmaster
    refine ⟨fun pre k post hl hpre hk => ?_, fun hclocks => ?_⟩
    · simpa [State.clockCheck, Guard.number] using hguards.refusedAt (before := []) s.clockCheck
        (powerUpGuards_eq cs s) hl nofun (fun x hx => by simp [State.clockCheck, hpre x hx])
        (by simp [State.clockCheck, hk])
    · have hpass : ∀ x ∈ (groupBoth s.cfg).map s.clockCheck, x.fails = false :=
        List.forall_mem_map.mpr fun k hk => by simp [State.clockCheck, hclocks k hk]
      refine ⟨fun pre c post hl hpre hc => ?_, fun hvalid => ?_⟩
      · simpa [State.codecCheck, Guard.number] using hguards.refusedAt (after := []) s.codecCheck
          (by rw [List.append_nil, powerUpGuards_eq]) hl hpass (fun x hx => by simp [State.codecCheck, hpre x hx])
          (by simp [State.codecCheck, hc])
      · have hall : ∀ x ∈ powerUpGuards cs s, x.fails = false := List.forall_mem_append.mpr
          ⟨hpass, List.forall_mem_map.mpr fun c hc => by simp [hvalid c hc]⟩
        simpa [powerUpGuards_eq] using hguards.passes hall
  · rw [← hin.position] at hc
    obtain ⟨t, hexec, hrec, hreg, hcodec, hthen⟩ :=
      completes_rmwElem hc (hsound c) (execPowerUp_body cs hin) hbase hv hans
    refine ⟨t, hexec, hrec, hreg, ?_⟩
    cases hd : d.ok with
    | true =>
      rw [hd] at hthen hcodec
      exact ⟨sysclkKept_of_ok hcodec, hthen⟩
    | false =>
      rw [hd] at hthen hcodec
      exact ⟨sysclkCleared_of_fail hcodec, hthen⟩

/-! ## POWER_DOWN (R190) -/

theorem execPowerDown_start (cs : CodecSet) (h : s.atStart) :
    exec (.powerDown cs) s = .next (s.enterBody (codecList cs).length) := by
  rw [exec, execPowerDown, State.byPhase_start _ _ h]

/-- Entering a body keeps the local variables of the pseudocode (log 22). -/
theorem State.enterBody_locals {n : Nat} {q : Position} (hq : (s.enterBody n).eng.step = some q) :
    q.vals = s.position.vals ∧ q.first = s.position.first := by
  unfold State.enterBody at hq
  split at hq
  · exact nomatch hq
  · rw [← Option.some.inj hq]
    exact ⟨rfl, rfl⟩

/-- The state once POWER_DOWN's write to codec c has its answer d (R190): the first failure is noted, the sysclk
association cleared. -/
def State.powerDropped (s : State) (c : CodecId) (d : Answer) (rest : List (Option Answer)) : State :=
  let x := s.wrote c s.cfg.addrFmtctl (s.powerDownBase c ||| s.cfg.pdMask) d rest
  (if d.ok then x else x.goTo fun p => { p with first := p.first.or (some c) }).onCodec c CodecState.clearSysclk

theorem State.powerDropped_cfg : (s.powerDropped c d rest).cfg = s.cfg := by
  cases hd : d.ok <;> simp [State.powerDropped, hd]

theorem State.powerDropped_history : (s.powerDropped c d rest).history =
    s.history ++ [.memWrite c s.cfg.addrFmtctl (s.powerDownBase c ||| s.cfg.pdMask) d.ok] := by
  cases hd : d.ok <;> simp [State.powerDropped, hd]

theorem State.powerDropped_position : (s.powerDropped c d rest).position =
    { s.position with first := s.position.first.or (if d.ok then none else some c) } := by
  cases hd : d.ok <;> simp [State.powerDropped, hd]

theorem State.powerDropped_stillBusy : stillBusy s (s.powerDropped c d rest) := by
  unfold State.powerDropped
  cases d.ok <;> exact ⟨rfl, rfl, rfl, rfl⟩

/-- A codec of the set is written, whatever the answer; after the last one the first failure is reported. -/
theorem execPowerDown_body (hin : s.inBody p) (hc : (codecList cs)[p.elem]? = some c) (hans : answered s d) :
    completes (.powerDown cs) s fun t =>
      recorded s t [.memWrite c s.cfg.addrFmtctl (s.powerDownBase c ||| s.cfg.pdMask) d.ok] ∧
      if p.elem + 1 < (codecList cs).length then
        stillBusy s t ∧
          t.eng.step = some { p with elem := p.elem + 1, req := 0, first := p.first.or (if d.ok then none else some c) }
      else match p.first.or (if d.ok then none else some c) with
        | none => t.endedWith .ok 0 0
        | some c' => t.endedWith .registerWriteError (codecNum c') s.cfg.addrFmtctl := by
  obtain ⟨rest, hans⟩ := hans
  obtain rfl := hin.position
  have hexec : exec (.powerDown cs) s =
      .next ((s.powerDropped c d rest).nextElem (codecList cs).length State.endPowerDown) := by
    rw [exec, execPowerDown, State.byPhase_body _ _ hin, State.atElem_some hc, State.writeReg_wrote hans]
    rfl
  refine ⟨_, hexec, (State.nextElem_down_kept _ _).1.trans State.powerDropped_history, ?_⟩
  rw [State.nextElem, State.powerDropped_position]
  split
  · exact ⟨State.powerDropped_stillBusy, by rw [State.goTo_eng, State.powerDropped_position]⟩
  · rw [State.endPowerDown, State.powerDropped_position, State.powerDropped_cfg]
    split
    · next hfirst => rw [hfirst]; exact State.raise_endedWith _ _ _ _
    · next hfirst => rw [hfirst]; exact State.raise_endedWith _ _ _ _

/-- Settles O24: `execPowerDown_body` says what the step of a codec does. -/
theorem powerDownAttemptsEveryCodec : Obligations.PowerDownAttemptsEveryCodec := by
  unfold Obligations.PowerDownAttemptsEveryCodec
  intro cs s hsound
  refine ⟨by cases cs <;> rfl, fun h => ?_, fun p c base d hin hc hbase hans => ?_⟩
  · refine ⟨_, execPowerDown_start cs h, s.enterBody_entered _, s.enterBody_onlyStatusChanged _, fun q hq => ?_⟩
    rw [(State.enterBody_locals hq).2, h.position]
    rfl
  · obtain ⟨t, hexec, hrec, hthen⟩ := execPowerDown_body hin hc hans
    obtain rfl : s.powerDownBase c = base := by
      rcases hbase with hbase | ⟨hbase, rfl⟩ <;> simp [State.powerDownBase, hbase]
    obtain ⟨hreg, hcodec⟩ := exec_wrote hexec hrec (hsound c)
    exact ⟨t, hexec, hrec, hreg, by rw [sysclkCleared, hcodec]; exact ⟨rfl, rfl⟩, hthen⟩

end Sys2Proof.Machine
end

section
/-! PROOFS. The volume encoding (R180 to R184) and the volume commands (R191, R192): their steps, what a run of
SET_VOLUME has recorded at any point (R196), and what it leaves in the reference codec (R195, R200). -/
namespace Sys2Proof.Machine

variable {i : Instr} {s t u : State} {c : CodecId} {ch : Channel} {p : Position} {a v l m r : Nat} {d : Answer}
  {rest : List (Option Answer)}

/-! ## The encoding (R180 to R182) -/

theorem volLsb_eq (cfg : Config) (r : Nat) : volLsb cfg r = r % 2 ^ cfg.volLsbBits := rfl

theorem volJoin_eq (cfg : Config) (l m : Nat) :
    volJoin cfg l m = m % 2 ^ (10 - cfg.volLsbBits) * 2 ^ cfg.volLsbBits + l % 2 ^ cfg.volLsbBits := rfl

theorem volRaw_le (cfg : Config) (c : CodecId) (ch : Channel) (h : v ≤ 1023) : volRaw cfg c ch v ≤ 1023 := by
  unfold volRaw volMax
  split
  · exact Nat.sub_le _ _
  · exact h

section Encoding

variable {cfg : Config} (hok : configOk cfg = true)
include hok

/-- The high bits of a raw value fill the value field of the MSB register. -/
theorem volRaw_high_lt (hr : r ≤ 1023) : r / 2 ^ cfg.volLsbBits < 2 ^ (10 - cfg.volLsbBits) := by
  obtain ⟨-, hbits, -⟩ := configOk_widths hok
  refine Nat.div_lt_of_lt_mul ?_
  rw [← Nat.pow_add, Nat.add_sub_cancel' hbits.le]
  exact Nat.lt_succ_of_le hr

theorem volMsb_eq (hr : r ≤ 1023) : volMsb cfg r = r / 2 ^ cfg.volLsbBits ||| cfg.latchMask := by
  rw [volMsb, bitField, Nat.shiftRight_eq_div_pow]
  exact congrArg (· ||| cfg.latchMask) (Nat.mod_eq_of_lt (volRaw_high_lt hok hr))

/-- The latch bit lies above the value field (R7). -/
theorem latchMask_mod : cfg.latchMask % 2 ^ (10 - cfg.volLsbBits) = 0 := by
  obtain ⟨b, hb, hle, -⟩ := configOk_latch hok
  rw [hb]
  exact Nat.mod_eq_zero_of_dvd (Nat.pow_dvd_pow 2 hle)

/-- The value field of the encoded MSB register (R180). -/
theorem volMsb_field (hr : r ≤ 1023) : volMsb cfg r % 2 ^ (10 - cfg.volLsbBits) = r / 2 ^ cfg.volLsbBits := by
  rw [volMsb_eq hok hr, Nat.or_mod_two_pow, latchMask_mod hok, Nat.or_zero, Nat.mod_eq_of_lt (volRaw_high_lt hok hr)]

/-- The encoded MSB register has the latch bit (R180). -/
theorem volMsb_latched (r : Nat) : volMsb cfg r &&& cfg.latchMask ≠ 0 := by
  obtain ⟨b, hb, -⟩ := configOk_latch hok
  rw [volMsb, hb, Ne, and_two_pow_eq_zero_iff]
  simp

/-- The two encoded registers join to the raw value (R71, R181). -/
theorem volJoin_encoded (hr : r ≤ 1023) : volJoin cfg (volLsb cfg r) (volMsb cfg r) = r := by
  rw [volJoin_eq, volMsb_field hok hr, volLsb_eq, Nat.mod_mod, Nat.div_add_mod']

/-- Decoding undoes encoding (R182). -/
theorem volDecode_encoded (c : CodecId) (ch : Channel) (hv : v ≤ 1023) :
    volDecode cfg c ch (volLsb cfg (volRaw cfg c ch v)) (volMsb cfg (volRaw cfg c ch v)) = v := by
  rw [volDecode, volJoin_encoded hok (volRaw_le cfg c ch hv)]
  unfold volRaw volMax
  split <;> omega

end Encoding

/-- Settles O56, by `volDecode_encoded`. -/
theorem volumeDecodeUndoesEncode : Obligations.VolumeDecodeUndoesEncode := by
  unfold Obligations.VolumeDecodeUndoesEncode
  intro cfg c ch v hok hv
  exact volDecode_encoded hok c ch hv

/-! ## The latch bit (R184) -/

/-- No control lies in an attenuation MSB register (R7). -/
theorem addrAttMsb_ne {cfg : Config} (hok : configOk cfg = true) (ch : Channel) (e : Control) :
    (enumDesc cfg e).addr ≠ addrAttMsb cfg ch := by
  obtain ⟨-, henum, -⟩ := configOk_addrs hok
  intro heq
  refine (henum e).2 (heq ▸ ?_)
  cases ch <;> simp [fixedAddrs, addrAttMsb]

/-- Settles O44: an MSB register is written by SET_VOLUME, whose encoding has the latch bit, and by APPLY_STARTUP, whose
batch R7 checks. -/
theorem noMsbWriteWithoutTheLatchBit : Obligations.NoMsbWriteWithoutTheLatchBit := by
  unfold Obligations.NoMsbWriteWithoutTheLatchBit
  intro i s t c ch v ok hok h hrec
  obtain ⟨d, -, hw⟩ := (exec_registers h).wrote hrec
  obtain ⟨-, hmsb, -⟩ := addrFmtctl_ne hok
  have htarget := hw.target
  unfold storeTarget at htarget
  rw [hw.phase] at htarget
  have hmap {o : Option CodecId} {b : Nat} (hb : b ≠ addrAttMsb s.cfg ch) :
      o.map (fun c => (c, b)) ≠ some (c, addrAttMsb s.cfg ch) := fun ho => by
    obtain ⟨_, -, heq⟩ := Option.map_eq_some_iff.mp ho
    exact hb (congrArg Prod.snd heq)
  cases i with
  | applyStartup cs =>
    obtain ⟨pre, post, hbatch⟩ := List.append_of_mem hw.value
    exact (startupBatch_latches hok ch hbatch).1
  | setFmtSysclk cs | powerUp cs | powerDown cs => exact absurd htarget (hmap (hmsb ch).symm)
  | writeSynced cs e => exact absurd htarget (hmap (addrAttMsb_ne hok ch e))
  | setVolume c' ch' =>
    rcases hw.value with ⟨ha, -⟩ | ⟨-, rfl⟩
    · exact absurd ha (att_addrs_ne hok ch ch').1
    · exact volMsb_latched hok _
  | _ => exact hw.value.elim

/-! ## SET_VOLUME, request by request (R191) -/

/-- The channels of a codec (R183). -/
theorem channelLegal_iff (cfg : Config) (c : CodecId) (ch : Channel) : channelLegal cfg c ch = true ↔
    diffMode cfg c = .stereo ∨ diffMode cfg c = .stereoReversed ∨ ch = .ch0 := by
  unfold channelLegal
  cases diffMode cfg c <;> cases ch <;> simp

theorem channelIllegal_iff (cfg : Config) (c : CodecId) (ch : Channel) : channelLegal cfg c ch = false ↔
    (diffMode cfg c = .monoLeft ∨ diffMode cfg c = .monoRight) ∧ ch = .ch1 := by
  unfold channelLegal
  cases diffMode cfg c <;> cases ch <;> simp

theorem execSetVolume_invalid (h : s.atStart)
    (hbad : volMax < s.eng.cur.arg0.toNat ∨ channelLegal s.cfg c ch = false) :
    exec (.setVolume c ch) s = .next (s.raise .invalidOperand 0 0) := by
  rw [exec, execSetVolume, State.byPhase_start _ _ h]
  by_cases hv : volMax < s.eng.cur.arg0.toNat
  · rw [if_pos hv]
  · rw [if_neg hv, hbad.resolve_left hv]
    rfl

theorem execSetVolume_start (h : s.atStart) (hv : s.eng.cur.arg0.toNat ≤ 1023)
    (hch : channelLegal s.cfg c ch = true) : exec (.setVolume c ch) s = .next (s.enterBody 1) := by
  rw [exec, execSetVolume, State.byPhase_start _ _ h, if_neg (Nat.not_lt.mpr (show _ ≤ volMax from hv)), hch]
  rfl

/-- The raw value a SET_VOLUME writes. -/
def State.rawVolume (s : State) (c : CodecId) (ch : Channel) : Nat := volRaw s.cfg c ch s.eng.cur.arg0.toNat

theorem State.rawVolume_le (hv : s.eng.cur.arg0.toNat ≤ 1023) : s.rawVolume c ch ≤ 1023 := volRaw_le s.cfg c ch hv

/-- The state once SET_VOLUME's LSB write has its answer d. -/
def State.wroteLsb (s : State) (c : CodecId) (ch : Channel) (d : Answer) (rest : List (Option Answer)) : State :=
  s.wrote c (addrAttLsb s.cfg ch) (volLsb s.cfg (s.rawVolume c ch)) d rest

/-- The state once SET_VOLUME's MSB write has its answer d. -/
def State.wroteMsb (s : State) (c : CodecId) (ch : Channel) (d : Answer) (rest : List (Option Answer)) : State :=
  s.wrote c (addrAttMsb s.cfg ch) (volMsb s.cfg (s.rawVolume c ch)) d rest

section Requests

variable (hin : s.inBody p) (hans : s.env.answers = some d :: rest)
include hin hans

theorem execSetVolume_lsb (hreq : p.req = 0) : exec (.setVolume c ch) s = .next (
    if d.ok then (s.wroteLsb c ch d rest).nextReq
    else (s.wroteLsb c ch d rest).writeError c (addrAttLsb s.cfg ch)) := by
  rw [← hin.position] at hreq
  rw [exec, execSetVolume, State.byPhase_body _ _ hin, hreq]
  dsimp only
  rw [State.writeReg_wrote hans]
  rfl

theorem execSetVolume_msb (hreq : p.req = 1) : exec (.setVolume c ch) s = .next (
    if d.ok then (s.wroteMsb c ch d rest).finish
    else (s.wroteMsb c ch d rest).writeError c (addrAttMsb s.cfg ch)) := by
  rw [← hin.position] at hreq
  rw [exec, execSetVolume, State.byPhase_body _ _ hin, hreq]
  dsimp only
  rw [State.writeReg_wrote hans]
  rfl

end Requests

/-- Settles O25: each request is one write, and its value one half of the encoded raw value. -/
theorem setVolumeWritesLsbThenLatchedMsb : Obligations.SetVolumeWritesLsbThenLatchedMsb := by
  unfold Obligations.SetVolumeWritesLsbThenLatchedMsb
  intro c ch s hok hsound
  refine ⟨by cases c <;> cases ch <;> rfl, fun h => ⟨fun hbad => ?_, fun hv hch => ?_⟩, fun p d hin hv hans => ?_⟩
  · rw [← channelIllegal_iff] at hbad
    exact ⟨_, execSetVolume_invalid h hbad, s.raise_endedWith _ _ _, s.raise_onlyStatusChanged _ _ _⟩
  · exact ⟨_, execSetVolume_start h hv ((channelLegal_iff _ _ _).mpr hch), s.enterBody_entered 1,
      s.enterBody_onlyStatusChanged 1⟩
  · obtain ⟨rest, hans⟩ := hans
    refine ⟨fun hreq => ?_, fun hreq => ?_⟩
    · obtain ⟨t, hexec, hrec, hreg, -, hthen⟩ := completes_wrote (k := State.nextReq) (P := toNextRequest s) (hsound c)
        (execSetVolume_lsb hin hans hreq) rfl (State.nextReq_toNextRequest ⟨rfl, rfl, rfl, rfl⟩ rfl)
      exact ⟨t, hexec, hrec, hreg, hthen⟩
    · have hmsb : volMsb s.cfg (s.rawVolume c ch) = _ := volMsb_eq hok (State.rawVolume_le hv)
      obtain ⟨t, hexec, hrec, hreg, -, hthen⟩ := completes_wrote (k := State.finish)
        (P := fun t => t.endedWith .ok 0 0) (hsound c) (execSetVolume_msb hin hans hreq) rfl
        (State.raise_endedWith _ _ _ _)
      rw [hmsb] at hrec hreg
      exact ⟨t, hexec, hrec, hreg, hthen⟩

/-! ## GET_VOLUME, request by request (R192) -/

theorem execGetVolume_invalid (h : s.atStart) (hbad : channelLegal s.cfg c ch = false) :
    exec (.getVolume c ch) s = .next (s.raise .invalidOperand 0 0) := by
  rw [exec, execGetVolume, State.byPhase_start _ _ h, hbad]
  rfl

theorem execGetVolume_start (h : s.atStart) (hch : channelLegal s.cfg c ch = true) :
    exec (.getVolume c ch) s = .next (s.enterBody 1) := by
  rw [exec, execGetVolume, State.byPhase_start _ _ h, hch]
  rfl

/-- The state once GET_VOLUME has read x from the LSB register. -/
def State.readLsb (s : State) (c : CodecId) (ch : Channel) (x : Nat) (rest : List (Option Answer)) : State :=
  ((s.sawRead c (addrAttLsb s.cfg ch) (some x) rest).goTo fun p => { p with vals := [x] }).nextReq

theorem State.readLsb_step (s : State) (c : CodecId) (ch : Channel) (x : Nat) (rest : List (Option Answer)) :
    (s.readLsb c ch x rest).eng.step = some { s.position with req := s.position.req + 1, vals := [x] } := rfl

/-- The state once GET_VOLUME has read m from the MSB register, having read l from the LSB register. -/
def State.readMsb (s : State) (c : CodecId) (ch : Channel) (l m : Nat) (rest : List (Option Answer)) : State :=
  ((s.sawRead c (addrAttMsb s.cfg ch) (some m) rest).setData (volDecode s.cfg c ch l m)).finish

section Requests

variable (hin : s.inBody p) (hans : s.env.answers = some d :: rest)
include hin hans

theorem execGetVolume_lsb (hreq : p.req = 0) : exec (.getVolume c ch) s = .next (
    if readOk s d then s.readLsb c ch (readBack s c (addrAttLsb s.cfg ch) d) rest
    else (s.sawRead c (addrAttLsb s.cfg ch) none rest).raise .registerReadError (codecNum c)
      (addrAttLsb s.cfg ch)) := by
  rw [← hin.position] at hreq
  rw [exec, execGetVolume, State.byPhase_body _ _ hin, hreq]
  exact congrArg Host.Outcome.next (State.readReg_sawRead hans)

theorem execGetVolume_msb (hreq : p.req = 1) (hvals : p.vals = [l]) : exec (.getVolume c ch) s = .next (
    if readOk s d then s.readMsb c ch l (readBack s c (addrAttMsb s.cfg ch) d) rest
    else (s.sawRead c (addrAttMsb s.cfg ch) none rest).raise .registerReadError (codecNum c)
      (addrAttMsb s.cfg ch)) := by
  have hl : s.position.vals.headD 0 = l := by rw [hin.position, hvals]; rfl
  rw [← hin.position] at hreq
  rw [exec, execGetVolume, State.byPhase_body _ _ hin, hreq, ← hl]
  exact congrArg Host.Outcome.next (State.readReg_sawRead hans)

end Requests

/-- Settles O26: each request is one read, which succeeds or ends the command. -/
theorem getVolumeDecodesWhatTheTransportReturns : Obligations.GetVolumeDecodesWhatTheTransportReturns := by
  unfold Obligations.GetVolumeDecodesWhatTheTransportReturns
  intro c ch s
  refine ⟨by cases c <;> cases ch <;> rfl, fun h => ⟨fun hbad => ?_, fun hch => ?_⟩, fun p d hin ⟨rest, hans⟩ =>
    ⟨fun hreq => ⟨_, execGetVolume_lsb hin hans hreq, ?_⟩, fun l hreq hvals =>
      ⟨_, execGetVolume_msb hin hans hreq hvals, ?_⟩⟩⟩
  · exact ⟨_, execGetVolume_invalid h ((channelIllegal_iff _ _ _).mpr hbad), s.raise_endedWith _ _ _,
      s.raise_onlyStatusChanged _ _ _⟩
  · exact ⟨_, execGetVolume_start h ((channelLegal_iff _ _ _).mpr hch), s.enterBody_entered 1,
      s.enterBody_onlyStatusChanged 1⟩
  · cases readOk s d with
    | true =>
      exact ⟨rfl, rfl, ⟨rfl, rfl, rfl, rfl⟩, by rw [if_pos rfl, State.readLsb_step, hin.position, hreq]⟩
    | false => exact ⟨rfl, rfl, State.raise_endedWith _ _ _ _⟩
  · cases readOk s d with
    | true => exact ⟨rfl, State.raise_endedWith _ _ _ _, rfl⟩
    | false => exact ⟨rfl, rfl, State.raise_endedWith _ _ _ _⟩

/-! ## What a SET_VOLUME has requested (R196) -/

/-- The requests of a SET_VOLUME up to some point of it. -/
def volumeRequests (c : CodecId) (ch : Channel) (s t : State) : Prop :=
  recorded s t [] ∨
  (∃ v ok, recorded s t [.memWrite c (addrAttLsb s.cfg ch) v ok]) ∨
  (∃ v v' ok, recorded s t
    [.memWrite c (addrAttLsb s.cfg ch) v true, .memWrite c (addrAttMsb s.cfg ch) v' ok])

/-- Where a SET_VOLUME is, with what it has requested: before its LSB write, or between its two writes, the first one
answered `ok`, or at its end. -/
inductive VolumeProgress (c : CodecId) (ch : Channel) (s t : State) : Prop
  | start (phase : t.position.phase = .start) (none : recorded s t [])
  | atLsb (phase : t.position.phase = .body) (req : t.position.req = 0) (none : recorded s t [])
  | atMsb (phase : t.position.phase = .body) (req : t.position.req = 1) (v : Nat)
      (lsb : recorded s t [.memWrite c (addrAttLsb s.cfg ch) v true])
  | ended (idle : t.eng.busy = false) (requests : volumeRequests c ch s t)

theorem VolumeProgress.requests (h : VolumeProgress c ch s t) : volumeRequests c ch s t := by
  cases h with
  | start _ none | atLsb _ _ none => exact .inl none
  | atMsb _ _ v lsb => exact .inr (.inl ⟨v, true, lsb⟩)
  | ended _ requests => exact requests

theorem recorded.append {evs evs' : List Event} (h : recorded s t evs) (h' : recorded t u evs') :
    recorded s u (evs ++ evs') := by
  unfold recorded at h h' ⊢
  rw [h', h, List.append_assoc]

/-- A step goes from one place to the next, or to the end. -/
theorem VolumeProgress.step (h : VolumeProgress c ch s t) (hcfg : t.cfg = s.cfg) (hbusy : t.eng.busy = true)
    (hexec : exec (.setVolume c ch) t = .next u) : VolumeProgress c ch s u := by
  rw [exec, execSetVolume, State.byPhase_eq, Host.Outcome.next.injEq] at hexec
  subst hexec
  cases h with
  | start phase none =>
    rw [phase]
    dsimp only
    split
    · exact .ended rfl (.inl none)
    · split
      · exact .ended rfl (.inl none)
      · exact .atLsb rfl rfl none
  | atLsb phase req none =>
    rw [phase, req, hcfg]
    refine State.writeReg_elim (P := VolumeProgress c ch s) (fun e => .atLsb phase req none) fun d e => ?_
    have hlsb : recorded s (({ t with env := e } : State).afterWriteReg c (addrAttLsb s.cfg ch)
        (volLsb s.cfg (volRaw s.cfg c ch t.eng.cur.arg0.toNat)) d) [.memWrite c (addrAttLsb s.cfg ch) _ d.ok] :=
      none.append rfl
    cases hd : d.ok with
    | true => exact .atMsb phase (congrArg (· + 1) req) _ (hd ▸ hlsb)
    | false => exact .ended rfl (.inr (.inl ⟨_, d.ok, hlsb⟩))
  | atMsb phase req v lsb =>
    rw [phase, req, hcfg]
    refine State.writeReg_elim (P := VolumeProgress c ch s) (fun e => .atMsb phase req v lsb) fun d e => ?_
    have hboth : volumeRequests c ch s (({ t with env := e } : State).afterWriteReg c (addrAttMsb s.cfg ch)
        (volMsb s.cfg (volRaw s.cfg c ch t.eng.cur.arg0.toNat)) d) :=
      .inr (.inr ⟨v, _, d.ok, lsb.append rfl⟩)
    cases d.ok with
    | true => exact .ended rfl hboth
    | false => exact .ended rfl hboth
  | ended idle _ => exact nomatch hbusy.symm.trans idle

/-- Settles O51: `VolumeProgress` holds at the issue, and every step keeps it. -/
theorem setVolumeOrdersLsbBeforeMsb : Obligations.SetVolumeOrdersLsbBeforeMsb := by
  unfold Obligations.SetVolumeOrdersLsbBeforeMsb
  intro c ch s t m hs hrun
  have hprogress : t.cfg = s.cfg ∧ VolumeProgress c ch s t :=
    runExec_keeps (P := fun t => t.cfg = s.cfg ∧ VolumeProgress c ch s t)
      (fun x y hbusy ⟨hcfg, hx⟩ hexec => ⟨(exec_shape hexec).hostSideKept.1.trans hcfg, hx.step hcfg hbusy hexec⟩) hrun
      ⟨rfl, .start (congrArg Position.phase hs.position) (List.append_nil _).symm⟩
  exact hprogress.2.requests

/-! ## The reference codec under the two writes (R70, R71, R76) -/

theorem RefModel.write_plugged (cfg : Config) (m : RefModel) (c : CodecId) (a v : Nat) (d : Answer) :
    (m.write cfg c a v d).plugged = m.plugged := by
  unfold RefModel.write
  split
  · cases c <;> rfl
  · rfl

/-- An LSB write commits nothing (R70). -/
theorem RefCodec.active_take_lsb {cfg : Config} {x : RefCodec} (hok : configOk cfg = true) :
    (x.take cfg (addrAttLsb cfg ch) v).active ch = x.active ch := by
  rw [RefCodec.take_lsb ch v hok, RefCodec.active_setHoldLsb, RefCodec.active_store]

/-! ## Runs of the volume commands (R195, R200) -/

/-- From s a volume command has come to request r, with the values `vals` read, the reference codecs m and the answers l
to come. -/
structure VolumeAt (s : State) (r : Nat) (vals : List Nat) (m : RefModel) (l : List (Option Answer)) (t : State) :
    Prop where
  inBody  : ∃ p, t.inBody p ∧ p.req = r ∧ p.vals = vals
  cfg     : t.cfg = s.cfg
  cur     : t.eng.cur = s.eng.cur
  ref     : t.ref = m
  answers : t.env.answers = l

theorem VolumeAt.busy {vals : List Nat} {m : RefModel} {l : List (Option Answer)} (h : VolumeAt s r vals m l t) :
    t.eng.busy = true := by
  obtain ⟨⟨p, ⟨hbusy, -⟩, -⟩, -⟩ := h
  exact hbusy

theorem VolumeAt.of_enterBody (h : s.atStart) : VolumeAt s 0 [] s.ref s.env.answers (s.enterBody 1) :=
  ⟨⟨_, ⟨h.1, rfl, rfl⟩, rfl, congrArg Position.vals h.position⟩, rfl, rfl, rfl, rfl⟩

theorem State.inBody.nextReq {x : State} (hin : s.inBody p) (hbusy : x.eng.busy = s.eng.busy)
    (hpos : x.position = s.position) : x.nextReq.inBody { p with req := p.req + 1 } := by
  rw [hin.position] at hpos
  obtain ⟨hb, -, hphase⟩ := hin
  exact ⟨hbusy.trans hb, by simp [hpos], hphase⟩

section Requests

variable {m : RefModel}

/-- The codec models after SET_VOLUME's LSB write. -/
def State.refAfterLsb (s : State) (c : CodecId) (ch : Channel) (d : Answer) : RefModel :=
  s.ref.write s.cfg c (addrAttLsb s.cfg ch) (volLsb s.cfg (s.rawVolume c ch)) d

/-- The codec models after both writes of SET_VOLUME. -/
def State.refAfterMsb (s : State) (c : CodecId) (ch : Channel) (d d' : Answer) : RefModel :=
  (s.refAfterLsb c ch d).write s.cfg c (addrAttMsb s.cfg ch) (volMsb s.cfg (s.rawVolume c ch)) d'

theorem VolumeAt.rawVolume {vals : List Nat} {l : List (Option Answer)} (h : VolumeAt s r vals m l t) (c : CodecId)
    (ch : Channel) : t.rawVolume c ch = s.rawVolume c ch := by
  rw [State.rawVolume, h.cfg, h.cur]
  rfl

/-- The LSB write goes on or ends the command. -/
theorem VolumeAt.writesLsb (h : VolumeAt s 0 [] s.ref (some d :: rest) t) (c : CodecId) (ch : Channel) :
    completes (.setVolume c ch) t fun u =>
      if d.ok then VolumeAt s 1 [] (s.refAfterLsb c ch d) rest u
      else u.endedWith .registerWriteError (codecNum c) (addrAttLsb s.cfg ch) ∧ u.ref = s.refAfterLsb c ch d := by
  have hraw := h.rawVolume c ch
  obtain ⟨⟨p, hin, hreq, hvals⟩, hcfg, hcur, href, hans⟩ := h
  have hwritten : (t.wroteLsb c ch d rest).ref = s.refAfterLsb c ch d := by
    rw [State.wroteLsb, State.wrote_ref, hcfg, href, hraw]
    rfl
  refine ⟨_, execSetVolume_lsb hin hans hreq, ?_⟩
  cases d.ok with
  | true =>
    exact ⟨⟨_, hin.nextReq rfl rfl, congrArg (· + 1) hreq, hvals⟩, hcfg, hcur, hwritten, rfl⟩
  | false => exact ⟨hcfg ▸ State.raise_endedWith _ _ _ _, hwritten⟩

/-- The MSB write ends the command. -/
theorem VolumeAt.writesMsb {d' : Answer} (h : VolumeAt s 1 [] (s.refAfterLsb c ch d) (some d' :: rest) t) :
    completes (.setVolume c ch) t fun u =>
      (if d'.ok then u.endedWith .ok 0 0 else u.endedWith .registerWriteError (codecNum c) (addrAttMsb s.cfg ch)) ∧
      u.ref = s.refAfterMsb c ch d d' ∧ u.cfg = s.cfg ∧ u.env.answers = rest := by
  have hraw := h.rawVolume c ch
  obtain ⟨⟨p, hin, hreq, -⟩, hcfg, -, href, hans⟩ := h
  have hwritten : (t.wroteMsb c ch d' rest).ref = s.refAfterMsb c ch d d' := by
    rw [State.wroteMsb, State.wrote_ref, hcfg, href, hraw]
    rfl
  refine ⟨_, execSetVolume_msb hin hans hreq, ?_⟩
  cases d'.ok with
  | true => exact ⟨State.raise_endedWith _ _ _ _, hwritten, hcfg, rfl⟩
  | false => exact ⟨hcfg ▸ State.raise_endedWith _ _ _ _, hwritten, hcfg, rfl⟩

/-- GET_VOLUME's first read of a plugged codec goes on. -/
theorem VolumeAt.readsLsb (h : VolumeAt s 0 [] s.ref (some d :: rest) t) (hplug : s.ref.plugged = true)
    (c : CodecId) (ch : Channel) :
    completes (.getVolume c ch) t
      (VolumeAt s 1 [(s.ref.codec c).readReg s.cfg (addrAttLsb s.cfg ch)] s.ref rest) := by
  obtain ⟨⟨p, hin, hreq, hvals⟩, hcfg, hcur, href, hans⟩ := h
  have hread : readOk t d = true := by simp [readOk, href, hplug]
  have hback : readBack t c (addrAttLsb t.cfg ch) d = (s.ref.codec c).readReg s.cfg (addrAttLsb s.cfg ch) := by
    rw [readBack, href, if_pos hplug, hcfg]
  have hexec := execGetVolume_lsb (c := c) (ch := ch) hin hans hreq
  rw [if_pos hread, hback] at hexec
  refine ⟨_, hexec, ⟨_, ⟨hin.1, State.readLsb_step .., ?_⟩, ?_, rfl⟩, hcfg, hcur, href, rfl⟩
  · rw [hin.position]; exact hin.2.2
  · rw [hin.position]; exact congrArg (· + 1) hreq

/-- GET_VOLUME's second read of a plugged codec ends the command. -/
theorem VolumeAt.readsMsb (h : VolumeAt s 1 [l] s.ref (some d :: rest) t) (hplug : s.ref.plugged = true)
    (c : CodecId) (ch : Channel) :
    completes (.getVolume c ch) t fun u => u.endedWith .ok 0 0 ∧ u.ref = s.ref ∧
      u.win.data =
        BitVec.ofNat 32 (volDecode s.cfg c ch l ((s.ref.codec c).readReg s.cfg (addrAttMsb s.cfg ch))) := by
  obtain ⟨⟨p, hin, hreq, hvals⟩, hcfg, hcur, href, hans⟩ := h
  have hread : readOk t d = true := by simp [readOk, href, hplug]
  have hback : readBack t c (addrAttMsb t.cfg ch) d = (s.ref.codec c).readReg s.cfg (addrAttMsb s.cfg ch) := by
    rw [readBack, href, if_pos hplug, hcfg]
  have hexec := execGetVolume_msb (c := c) (ch := ch) hin hans hreq hvals
  rw [if_pos hread, hback] at hexec
  exact ⟨_, hexec, State.raise_endedWith _ _ _ _, href, by rw [← hcfg]; rfl⟩

end Requests

section Runs

variable {d' : Answer} (hs : s.atStart) (hv : s.eng.cur.arg0.toNat ≤ 1023) (hch : channelLegal s.cfg c ch = true)
include hs hv hch

theorem setVolume_begins : completes (.setVolume c ch) s (VolumeAt s 0 [] s.ref s.env.answers) :=
  ⟨_, execSetVolume_start hs hv hch, .of_enterBody hs⟩

/-- SET_VOLUME ends at a failed LSB write (R191). -/
theorem setVolume_lsbFails (hans : s.env.answers = some d :: rest) (hd : d.ok = false) :
    completesIn 3 (.setVolume c ch) s fun u =>
      u.endedWith .registerWriteError (codecNum c) (addrAttLsb s.cfg ch) ∧ u.ref = s.refAfterLsb c ch d := by
  refine (setVolume_begins hs hv hch).thenRuns hs.1 fun t ht => ?_
  rw [hans] at ht
  have hstep := ht.writesLsb c ch
  rw [hd] at hstep
  exact hstep.ends ht.busy fun u ⟨⟨hidle, _⟩, _⟩ => hidle

/-- SET_VOLUME with its LSB write answered `ok` ends with its MSB write. -/
theorem setVolume_run (hans : s.env.answers = some d :: some d' :: rest) (hd : d.ok = true) :
    completesIn 3 (.setVolume c ch) s fun u =>
      (if d'.ok then u.endedWith .ok 0 0 else u.endedWith .registerWriteError (codecNum c) (addrAttMsb s.cfg ch)) ∧
      u.ref = s.refAfterMsb c ch d d' ∧ u.cfg = s.cfg ∧ u.env.answers = rest := by
  refine (setVolume_begins hs hv hch).thenRuns hs.1 fun t ht => ?_
  rw [hans] at ht
  have hstep := ht.writesLsb c ch
  rw [hd] at hstep
  refine hstep.thenRuns ht.busy fun u hu => (VolumeAt.writesMsb hu).ends (VolumeAt.busy hu) fun x ⟨hend, _⟩ => ?_
  split at hend
  · exact hend.1
  · exact hend.1

omit hv

/-- GET_VOLUME of a plugged codec decodes its two registers. -/
theorem getVolume_run (hplug : s.ref.plugged = true) (hans : s.env.answers = some d :: some d' :: rest) :
    completesIn 3 (.getVolume c ch) s fun u => u.endedWith .ok 0 0 ∧ u.ref = s.ref ∧
      u.win.data = BitVec.ofNat 32 (volDecode s.cfg c ch ((s.ref.codec c).readReg s.cfg (addrAttLsb s.cfg ch))
        ((s.ref.codec c).readReg s.cfg (addrAttMsb s.cfg ch))) := by
  have hstart : completes (.getVolume c ch) s (VolumeAt s 0 [] s.ref s.env.answers) :=
    ⟨_, execGetVolume_start hs hch, .of_enterBody hs⟩
  refine hstart.thenRuns hs.1 fun t ht => ?_
  rw [hans] at ht
  exact (ht.readsLsb hplug c ch).thenRuns ht.busy fun u hu => (hu.readsMsb hplug c ch).ends hu.busy
    fun x ⟨⟨hidle, _⟩, _⟩ => hidle

end Runs

/-! ## What SET_VOLUME leaves in a plugged codec (R195, R200) -/

/-- The LSB write commits nothing, whatever its answer. -/
theorem State.refAfterLsb_active (hok : configOk s.cfg = true) :
    ((s.refAfterLsb c ch d).codec c).active ch = (s.ref.codec c).active ch := by
  rw [State.refAfterLsb, RefModel.write_codec_same]
  split
  · exact RefCodec.active_take_lsb hok
  · rfl

/-- The codec after both writes of the raw value r. -/
def RefCodec.takeVolume (cfg : Config) (x : RefCodec) (ch : Channel) (r : Nat) : RefCodec :=
  (x.take cfg (addrAttLsb cfg ch) (volLsb cfg r)).take cfg (addrAttMsb cfg ch) (volMsb cfg r)

/-- An MSB write that lands after an LSB write answered `ok`. -/
theorem State.refAfterMsb_codec {d' : Answer} (hplug : s.ref.plugged = true) (hd : d.ok = true)
    (hd' : d'.ok = true ∨ d'.taken = true) :
    (s.refAfterMsb c ch d d').codec c = (s.ref.codec c).takeVolume s.cfg ch (s.rawVolume c ch) := by
  rw [State.refAfterMsb, RefModel.write_codec_same, State.refAfterLsb, RefModel.write_plugged,
    RefModel.write_codec_of_ok hplug hd, hplug, if_pos (by simpa using hd')]
  rfl

section TakeVolume

variable {cfg : Config} {x : RefCodec} (hok : configOk cfg = true)
include hok

/-- Both writes commit the raw value (R71). -/
theorem RefCodec.active_takeVolume (hr : r ≤ 1023) : (x.takeVolume cfg ch r).active ch = some r := by
  rw [RefCodec.takeVolume, RefCodec.take_msb_latched ch _ hok (volMsb_latched hok r), RefCodec.active_setActive_same,
    RefCodec.take_lsb ch _ hok, RefCodec.holdLsb_setHoldLsb_same]
  exact congrArg some (volJoin_encoded hok hr)

theorem RefCodec.readLsb_takeVolume (hwf : Memory.wf (resetDefault cfg) x.reg) :
    (x.takeVolume cfg ch r).readReg cfg (addrAttLsb cfg ch) = volLsb cfg r := by
  rw [RefCodec.takeVolume, RefCodec.readReg, RefCodec.take_reg,
    Memory.read_write_ne _ _ _ (att_addrs_ne hok ch ch).1.symm]
  exact RefCodec.readReg_take_same _ _ hwf

omit hok in
theorem RefCodec.readMsb_takeVolume (hwf : Memory.wf (resetDefault cfg) x.reg) :
    (x.takeVolume cfg ch r).readReg cfg (addrAttMsb cfg ch) = volMsb cfg r := by
  refine RefCodec.readReg_take_same _ _ ?_
  rw [RefCodec.take_reg]
  exact Memory.write_wf _ hwf _ _

end TakeVolume

/-- Settles O53: an LSB write commits nothing, and an MSB write that fails lands whole or not at all. -/
theorem partialSetVolumeNeverMixesTheHalves : Obligations.PartialSetVolumeNeverMixesTheHalves := by
  unfold Obligations.PartialSetVolumeNeverMixesTheHalves
  intro c ch s hok hs hplug hch hv
  refine ⟨fun d rest hans hd => ?_, fun d d' rest hans hd hd' => ?_⟩
  · obtain ⟨t, ht, hend, href⟩ := setVolume_lsbFails hs hv hch hans hd
    exact ⟨t, ht, hend, by rw [href, State.refAfterLsb_active hok]⟩
  · obtain ⟨t, ht, hend, href, -⟩ := setVolume_run hs hv hch hans hd
    rw [hd'] at hend
    refine ⟨t, ht, hend, ?_⟩
    rw [href]
    cases htaken : d'.taken with
    | true =>
      rw [State.refAfterMsb_codec hplug hd (.inr htaken), RefCodec.active_takeVolume hok (State.rawVolume_le hv)]
      exact .inr rfl
    | false =>
      rw [State.refAfterMsb, RefModel.write_codec_same, hd', htaken, Bool.or_false, Bool.and_false, if_neg nofun,
        State.refAfterLsb_active hok]
      exact .inl rfl

/-- The next two answers, and what is left after them. -/
theorem answersGood.next_two {n : Nat} {ok : Prop} (h : answersGood ok s (n + 2)) :
    ∃ d d' rest, s.env.answers = some d :: some d' :: rest ∧ (ok → d.ok = true) ∧ (ok → d'.ok = true) ∧
      ∀ t : State, t.env.answers = rest → answersGood ok t n := by
  obtain ⟨d, l, hans, hd, hl⟩ := h.next
  obtain ⟨d', rest, hans', hd', hrest⟩ := (hl { s with env := { s.env with answers := l } } rfl).next
  exact ⟨d, d', rest, hans.trans (congrArg (some d :: ·) hans'), hd, hd', hrest⟩

/-- Settles O52: SET_VOLUME leaves the two encoded halves in the registers, and GET_VOLUME decodes them. -/
theorem volumeReadsBackThroughTheCodec : Obligations.VolumeReadsBackThroughTheCodec := by
  unfold Obligations.VolumeReadsBackThroughTheCodec
  intro c ch s w hok hs hplug hsound hgood hch hv
  obtain ⟨d, d', rest, hans, hd, hd', hrest⟩ := ((answersOk_iff s 4).mp hgood).next_two
  obtain ⟨t, ht, hend, href, hcfg, htans⟩ := setVolume_run hs hv hch hans (hd trivial)
  rw [hd' trivial] at hend
  obtain ⟨e, e', l, hans', -⟩ := (hrest t htans).next_two (n := 0)
  have hplug' : (t.issue w).ref.plugged = true := by
    rw [State.issue_ref, href, State.refAfterMsb, RefModel.write_plugged, State.refAfterLsb,
      RefModel.write_plugged, hplug]
  have hcodec : t.ref.codec c = (s.ref.codec c).takeVolume s.cfg ch (s.rawVolume c ch) := by
    rw [href, State.refAfterMsb_codec hplug (hd trivial) (.inl (hd' trivial))]
  obtain ⟨u, hu, hend', href', hdata⟩ := getVolume_run (s := t.issue w) (c := c) (ch := ch) ⟨rfl, rfl⟩
    (by rwa [State.issue_cfg, hcfg]) hplug' hans'
  refine ⟨t, u, ht, hend, hu, hend', ?_, ?_⟩
  · rw [hdata, State.issue_cfg, State.issue_ref, hcfg, hcodec, RefCodec.readLsb_takeVolume hok (hsound c),
      RefCodec.readMsb_takeVolume (hsound c), State.rawVolume, volDecode_encoded hok c ch hv, BitVec.ofNat_toNat,
      BitVec.setWidth_eq]
  · rw [href', State.issue_ref, hcodec, RefCodec.active_takeVolume hok (State.rawVolume_le hv)]
    rfl

end Sys2Proof.Machine
end

section
/-! PROOFS. The stereo-shared controls (R193, R194): their steps, the detection of a desync (R197), and the synchrony
that WRITE_SYNCED leaves (R198). -/
namespace Sys2Proof.Machine

variable {s t u : State} {cs : CodecSet} {e : Control} {c : CodecId} {p : Position} {x y : Nat} {d d' : Answer}
  {rest : List (Option Answer)}

/-! ## The field of a control (R185) -/

theorem enumMask_eq (cfg : Config) (e : Control) :
    enumMask cfg e = (2 ^ (enumDesc cfg e).width - 1) * 2 ^ (enumDesc cfg e).shift := Nat.shiftLeft_eq _ _

theorem enumField_eq (cfg : Config) (e : Control) (v : Nat) :
    enumField cfg e v = v / 2 ^ (enumDesc cfg e).shift % 2 ^ (enumDesc cfg e).width := by
  rw [enumField, enumMask, Nat.shiftRight_and_distrib, Nat.shiftLeft_shiftRight, Nat.and_two_pow_sub_one_eq_mod,
    Nat.shiftRight_eq_div_pow]

theorem enumLegal_iff (e : Control) (x : Nat) : enumLegal e x = true ↔ x < enumCount e := decide_eq_true_iff

/-- A legal value is read back from the field it was written to (R185). -/
theorem enumField_written {cfg : Config} (hok : configOk cfg = true) (base : Nat) (hx : enumLegal e x = true) :
    enumField cfg e (rmwValue cfg base (enumMask cfg e) (x <<< (enumDesc cfg e).shift)) = x := by
  obtain ⟨hcount, hfits⟩ := configOk_enum hok e
  have hlt : x < 2 ^ (enumDesc cfg e).width := ((enumLegal_iff e x).mp hx).trans_le hcount
  refine Nat.eq_of_testBit_eq fun i => ?_
  rw [enumField_eq, Nat.testBit_mod_two_pow, Nat.testBit_div_two_pow, rmwValue_testBit]
  by_cases hi : i < (enumDesc cfg e).width
  · have hbit : i + (enumDesc cfg e).shift < cfg.regDataBits := by omega
    have hmask : (enumMask cfg e).testBit (i + (enumDesc cfg e).shift) = true := by
      simp [enumMask, Nat.testBit_shiftLeft, Nat.testBit_two_pow_sub_one, hi]
    simp [hi, hbit, hmask, Nat.testBit_shiftLeft]
  · rw [Nat.testBit_lt_two_pow (hlt.trans_le (Nat.pow_le_pow_right (by decide) (Nat.le_of_not_lt hi)))]
    simp [hi]

/-! ## READ_SYNCED, step by step (R193) -/

theorem execReadSynced_start (cs : CodecSet) (e : Control) (h : s.atStart) :
    exec (.readSynced cs e) s = .next (s.enterBody (codecList cs).length) := by
  rw [exec, execReadSynced, State.byPhase_start _ _ h]

/-- The state once READ_SYNCED has read v from codec c and noted its field. -/
def State.notedField (s : State) (c : CodecId) (e : Control) (v : Nat) (rest : List (Option Answer)) : State :=
  (s.sawRead c (enumDesc s.cfg e).addr (some v) rest).goTo fun p => { p with vals := p.vals ++ [enumField s.cfg e v] }

theorem execReadSynced_read (hin : s.inBody p) (hc : (codecList cs)[p.elem]? = some c)
    (hans : s.env.answers = some d :: rest) : exec (.readSynced cs e) s = .next (
    if readOk s d then
      (s.notedField c e (readBack s c (enumDesc s.cfg e).addr d) rest).nextElem (2 * (codecList cs).length - 1)
        State.endReadSynced
    else (s.sawRead c (enumDesc s.cfg e).addr none rest).raise .registerReadError (codecNum c)
      (enumDesc s.cfg e).addr) := by
  rw [← hin.position] at hc
  rw [exec, execReadSynced, State.byPhase_body _ _ hin, hc]
  exact congrArg Host.Outcome.next (State.readReg_sawRead hans)

/-- The one comparison of two fields, with which the command ends. -/
theorem execReadSynced_compare (hin : s.inBody p) (helem : p.elem = 2) (hvals : p.vals = [x, y]) :
    exec (.readSynced .lr e) s = .next (
      if x = y then (s.setData x).finish else s.raise .desyncError 1 (enumDesc s.cfg e).addr) := by
  have hcompare : s.compareSynced [.left, .right] (enumDesc s.cfg e).addr =
      if x = y then (s.setData x).finish else s.raise .desyncError 1 (enumDesc s.cfg e).addr := by
    rw [State.compareSynced, hin.position, helem, hvals]
    by_cases hxy : x = y
    · simp [hxy, State.nextElem, hin.position, helem, State.endReadSynced, hvals]
    · simp [hxy, Ne.symm hxy, codecNum]
  rw [exec, execReadSynced, State.byPhase_body _ _ hin, hin.position, helem]
  exact congrArg Host.Outcome.next hcompare

/-- The last of the reads of one codec ends the command; every read of two goes on. -/
theorem State.notedField_next {v : Nat} (hin : s.inBody p) (hc : (codecList cs)[p.elem]? = some c)
    (hvals : p.vals.length = p.elem) :
    (s.notedField c e v rest).nextElem (2 * (codecList cs).length - 1) State.endReadSynced =
      if (codecList cs).length = 1 then
        ((s.sawRead c (enumDesc s.cfg e).addr (some v) rest).setData (enumField s.cfg e v)).finish
      else (s.sawRead c (enumDesc s.cfg e).addr (some v) rest).goTo fun _ =>
        { p with elem := p.elem + 1, req := 0, vals := p.vals ++ [enumField s.cfg e v] } := by
  obtain ⟨helem, -⟩ := List.getElem?_eq_some_iff.mp hc
  have hpos : (s.notedField c e v rest).position = { p with vals := p.vals ++ [enumField s.cfg e v] } := by
    rw [← hin.position]; rfl
  rw [State.nextElem, hpos]
  by_cases hone : (codecList cs).length = 1
  · have hnil : p.vals = [] := List.eq_nil_of_length_eq_zero (by omega)
    rw [if_pos hone, if_neg (by dsimp only; omega), State.endReadSynced, hpos, hnil]
    rfl
  · have htwo : (codecList cs).length ≤ 2 := by cases cs <;> decide
    rw [if_neg hone, if_pos (by dsimp only; omega), State.goTo, hpos]
    rfl

/-- Settles O27: a read fails and ends the command, or is followed by what `State.notedField_next` says; the last step
is `execReadSynced_compare`. -/
theorem readSyncedReadsAllThenCompares : Obligations.ReadSyncedReadsAllThenCompares := by
  unfold Obligations.ReadSyncedReadsAllThenCompares
  intro cs e s
  refine ⟨by cases cs <;> cases e <;> rfl, fun h => ?_, fun p c d hin hc hvals hans => ?_,
    fun p x y hcs hin helem hvals => ?_⟩
  · refine ⟨_, execReadSynced_start cs e h, s.enterBody_entered _, s.enterBody_onlyStatusChanged _, fun q hq => ?_⟩
    rw [(State.enterBody_locals hq).1, h.position]
    rfl
  · obtain ⟨rest, hans⟩ := hans
    refine ⟨_, execReadSynced_read hin hc hans, ?_⟩
    dsimp only
    rw [← enumField_eq, State.notedField_next hin hc hvals]
    cases readOk s d with
    | true =>
      by_cases hone : (codecList cs).length = 1
      · simp only [if_pos hone]
        exact ⟨rfl, State.raise_endedWith _ _ _ _, rfl⟩
      · simp only [if_neg hone]
        exact ⟨rfl, rfl, ⟨rfl, rfl, rfl, rfl⟩, rfl⟩
    | false => exact ⟨rfl, rfl, State.raise_endedWith _ _ _ _⟩
  · subst hcs
    refine ⟨_, execReadSynced_compare hin helem hvals, ?_⟩
    by_cases hxy : x = y
    · simp only [if_pos hxy]
      exact ⟨(List.append_nil _).symm, State.raise_endedWith _ _ _ _, rfl⟩
    · simp only [if_neg hxy]
      exact ⟨(List.append_nil _).symm, State.raise_endedWith _ _ _ _, rfl⟩

/-! ## The detection of a desync (R197) -/

/-- From s a READ_SYNCED of both codecs has come to element n, with the fields `vals` read and the answers l to come. -/
structure SyncedAt (s : State) (n : Nat) (vals : List Nat) (l : List (Option Answer)) (t : State) : Prop where
  inBody  : ∃ p, t.inBody p ∧ p.elem = n ∧ p.vals = vals
  cfg     : t.cfg = s.cfg
  ref     : t.ref = s.ref
  data    : t.win.data = s.win.data
  answers : t.env.answers = l

theorem SyncedAt.busy {n : Nat} {vals : List Nat} {l : List (Option Answer)} (h : SyncedAt s n vals l t) :
    t.eng.busy = true := by
  obtain ⟨⟨p, ⟨hbusy, -⟩, -⟩, -⟩ := h
  exact hbusy

/-- The field that a read of codec c answered by d returns. -/
def State.fieldBack (s : State) (e : Control) (c : CodecId) (d : Answer) : Nat :=
  enumField s.cfg e (readBack s c (enumDesc s.cfg e).addr d)

theorem SyncedAt.begins (hs : s.atStart) (e : Control) :
    completes (.readSynced .lr e) s (SyncedAt s 0 [] s.env.answers) :=
  ⟨_, execReadSynced_start .lr e hs, ⟨_, ⟨hs.1, rfl, rfl⟩, rfl, congrArg Position.vals hs.position⟩, rfl, rfl, rfl, rfl⟩

/-- A read goes on or ends the command with an error. -/
theorem SyncedAt.reads {n : Nat} {vals : List Nat} (h : SyncedAt s n vals (some d :: rest) t) (e : Control)
    (hc : (codecList .lr)[n]? = some c) (hvals : vals.length = n) :
    completes (.readSynced .lr e) t fun u =>
      if readOk s d then SyncedAt s (n + 1) (vals ++ [s.fieldBack e c d]) rest u
      else u.endedWith .registerReadError (codecNum c) (enumDesc s.cfg e).addr := by
  obtain ⟨⟨p, hin, rfl, rfl⟩, hcfg, href, hdata, hans⟩ := h
  have hread : readOk t d = readOk s d := by rw [readOk, href]; rfl
  have hback : readBack t c (enumDesc t.cfg e).addr d = readBack s c (enumDesc s.cfg e).addr d := by
    rw [readBack, href, hcfg]; rfl
  have hexec := execReadSynced_read (e := e) hin hc hans
  rw [State.notedField_next hin hc hvals, if_neg (show ¬(codecList .lr).length = 1 by decide), hread, hback] at hexec
  refine ⟨_, hexec, ?_⟩
  cases readOk s d with
  | true =>
    exact ⟨⟨_, ⟨hin.1, rfl, hin.2.2⟩, rfl, by rw [hcfg]; rfl⟩, hcfg, href, hdata, rfl⟩
  | false => exact hcfg ▸ State.raise_endedWith _ _ _ _

/-- The comparison ends the command, with OK exactly where the fields agree. -/
theorem SyncedAt.compares (h : SyncedAt s 2 [x, y] rest t) (e : Control) :
    completes (.readSynced .lr e) t fun u =>
      if x = y then u.endedWith .ok 0 0 ∧ u.win.data = BitVec.ofNat 32 x
      else u.endedWith .desyncError 1 (enumDesc s.cfg e).addr ∧ u.win.data = s.win.data := by
  obtain ⟨⟨p, hin, helem, hvals⟩, hcfg, -, hdata, -⟩ := h
  refine ⟨_, execReadSynced_compare hin helem hvals, ?_⟩
  by_cases hxy : x = y
  · simp only [if_pos hxy]
    exact ⟨State.raise_endedWith _ _ _ _, rfl⟩
  · simp only [if_neg hxy]
    exact ⟨hcfg ▸ State.raise_endedWith _ _ _ _, hdata⟩

/-- How a READ_SYNCED of both codecs ends, its reads answered by d and d' (R193). -/
def syncedEnd (s : State) (e : Control) (d d' : Answer) (t : State) : Prop :=
  if readOk s d = true ∧ readOk s d' = true then
    if s.fieldBack e .left d = s.fieldBack e .right d' then
      t.endedWith .ok 0 0 ∧ t.win.data = BitVec.ofNat 32 (s.fieldBack e .left d)
    else t.endedWith .desyncError 1 (enumDesc s.cfg e).addr ∧ t.win.data = s.win.data
  else ∃ c, t.endedWith .registerReadError (codecNum c) (enumDesc s.cfg e).addr

theorem readSynced_run (hs : s.atStart) (e : Control) (hans : s.env.answers = some d :: some d' :: rest) :
    completesIn 4 (.readSynced .lr e) s (syncedEnd s e d d') := by
  refine (SyncedAt.begins hs e).thenRuns hs.1 fun t ht => ?_
  rw [hans] at ht
  refine (ht.reads e (c := .left) rfl rfl).thenRuns ht.busy fun u hu => ?_
  cases hd : readOk s d with
  | false =>
    rw [hd] at hu
    exact ⟨u, runExec_done hu.1, by rw [syncedEnd, if_neg (by simp [hd])]; exact ⟨.left, hu⟩⟩
  | true =>
    rw [hd, if_pos rfl] at hu
    refine (hu.reads e (c := .right) rfl rfl).thenRuns hu.busy fun x hx => ?_
    cases hd' : readOk s d' with
    | false =>
      rw [hd'] at hx
      exact ⟨x, runExec_done hx.1, by rw [syncedEnd, if_neg (by simp [hd'])]; exact ⟨.right, hx⟩⟩
    | true =>
      rw [hd', if_pos rfl] at hx
      obtain ⟨y, hy, hend⟩ := hx.compares e
      exact ⟨y, by rw [runExec_step hx.busy hy, runExec], by rwa [syncedEnd, if_pos ⟨hd, hd'⟩]⟩

/-- Settles O54: a failed read, a difference and an agreement are the ends of `readSynced_run`, told apart by CODE. -/
theorem readSyncedDetectsDesync : Obligations.ReadSyncedDetectsDesync := by
  unfold Obligations.ReadSyncedDetectsDesync
  intro e s d d' rest hs hans
  obtain ⟨t, ht, hend⟩ := readSynced_run hs e hans
  unfold syncedEnd at hend
  split at hend
  · next hread =>
    obtain ⟨hd, hd'⟩ := hread
    split at hend
    · next hsame =>
      obtain ⟨hok, hdata⟩ := hend
      have hcode : t.win.code = .ok := hok.2.2.1
      have hne : t.win.code ≠ .desyncError := hcode ▸ nofun
      exact ⟨t, ht, hok.1, iff_of_false hne fun ⟨_, _, hdiffer⟩ => hdiffer hsame, iff_of_true hcode ⟨hd, hd', hsame⟩,
        fun h => absurd h hne, fun _ => ⟨hok, hdata⟩⟩
    · next hdiffer =>
      obtain ⟨hdesync, hdata⟩ := hend
      have hcode : t.win.code = .desyncError := hdesync.2.2.1
      have hne : t.win.code ≠ .ok := hcode ▸ nofun
      exact ⟨t, ht, hdesync.1, iff_of_true hcode ⟨hd, hd', hdiffer⟩,
        iff_of_false hne fun ⟨_, _, hsame⟩ => hdiffer hsame, fun _ => ⟨hdesync, hdata⟩, fun h => absurd h hne⟩
  · next hread =>
    obtain ⟨c, hidle, -, hcode, -⟩ := hend
    have hne : t.win.code ≠ .desyncError := hcode ▸ nofun
    have hne' : t.win.code ≠ .ok := hcode ▸ nofun
    exact ⟨t, ht, hidle, iff_of_false hne fun ⟨hd, hd', _⟩ => hread ⟨hd, hd'⟩,
      iff_of_false hne' fun ⟨hd, hd', _⟩ => hread ⟨hd, hd'⟩, fun h => absurd h hne, fun h => absurd h hne'⟩

/-! ## WRITE_SYNCED, step by step (R194) -/

theorem execWriteSynced_invalid (h : s.atStart) (hbad : enumLegal e s.eng.cur.arg0.toNat = false) :
    exec (.writeSynced cs e) s = .next (s.raise .invalidOperand 0 0) := by
  rw [exec, execWriteSynced, State.byPhase_start _ _ h, hbad]
  rfl

theorem execWriteSynced_start (h : s.atStart) (hlegal : enumLegal e s.eng.cur.arg0.toNat = true) :
    exec (.writeSynced cs e) s = .next (s.enterBody (codecList cs).length) := by
  rw [exec, execWriteSynced, State.byPhase_start _ _ h, hlegal]
  rfl

/-- The step of one codec of a WRITE_SYNCED. -/
def State.writeField (s : State) (cs : CodecSet) (e : Control) : State :=
  s.rmwElem (codecList cs) (fun _ => (enumDesc s.cfg e).addr) (enumMask s.cfg e)
    (s.eng.cur.arg0.toNat <<< (enumDesc s.cfg e).shift) fun _ => id

theorem execWriteSynced_body (h : s.position.phase = .body) :
    exec (.writeSynced cs e) s = .next (s.writeField cs e) := by
  rw [exec, execWriteSynced, State.byPhase_eq, h]
  simp only [State.writeField, State.rmwElem, State.onCodec_id]

/-- Settles O28: the body is `rmwElem` over the codecs. -/
theorem writeSyncedWritesTheField : Obligations.WriteSyncedWritesTheField := by
  unfold Obligations.WriteSyncedWritesTheField
  intro cs e s hsound
  refine ⟨by cases cs <;> cases e <;> rfl, fun h => ⟨fun hbad => ?_, fun hx => ?_⟩, fun p c hin hc => ?_⟩
  · have hillegal : enumLegal e s.eng.cur.arg0.toNat = false := by
      rw [← Bool.not_eq_true, enumLegal_iff]
      exact Nat.not_lt.mpr hbad
    exact ⟨_, execWriteSynced_invalid h hillegal, s.raise_endedWith _ _ _, s.raise_onlyStatusChanged _ _ _⟩
  · exact ⟨_, execWriteSynced_start h ((enumLegal_iff _ _).mpr hx), s.enterBody_entered _,
      s.enterBody_onlyStatusChanged _⟩
  · have hexec := execWriteSynced_body (cs := cs) (e := e) (hin.position ▸ hin.2.2)
    rw [← hin.position] at hc
    refine ⟨fun hunknown => ⟨_, hexec, ?_⟩, fun base v d hbase hv hans => ?_⟩
    · rw [State.writeField, State.rmwElem_unknown hc hunknown]
      exact ⟨s.raise_endedWith _ _ _, s.raise_onlyStatusChanged _ _ _⟩
    · rw [← enumMask_eq, ← Nat.shiftLeft_eq] at hv
      obtain ⟨t, ht, hrec, hreg, -, hthen⟩ := completes_rmwElem hc (hsound c) hexec hbase hv hans
      exact ⟨t, ht, hrec, hreg, hthen⟩

/-! ## The register files over a step (R33, R69) -/

/-- The shadow maps and the reference codecs' register files are in canonical form. -/
structure FilesSound (t : State) : Prop where
  shadow : ∀ c, Memory.wf (shadowDefault t.cfg) (t.codec c).shadow
  ref    : ∀ c, refSound t c

/-- Every step keeps the canonical form, and the reference codecs plugged in or not. -/
theorem exec_filesSound {i : Instr} (h : exec i s = .next t) (hs : FilesSound s) :
    FilesSound t ∧ t.ref.plugged = s.ref.plugged := by
  have hcfg : t.cfg = s.cfg := (exec_shape h).hostSideKept.1
  rcases exec_registers h with ⟨-, href, hcodec⟩ | ⟨c, a, v, d, hw⟩
  · refine ⟨⟨fun c => ?_, fun c => by rw [refSound, hcfg, href]; exact hs.ref c⟩, by rw [href]⟩
    rw [hcfg]
    rcases hcodec with hkept | ⟨_, c', -, -, -, -, hcleared⟩
    · rw [hkept]
      exact hs.shadow c
    · rw [hcleared]
      split
      · exact hs.shadow c'
      · exact hs.shadow c
  · refine ⟨⟨fun c' => ?_, fun c' => ?_⟩, by rw [hw.ref, RefModel.write_plugged]⟩
    · rw [hcfg, hw.codec]
      split
      · rw [(afterAnswer_kept _ _ _ _).2, CodecState.afterWrite_shadow]
        exact Memory.write_wf _ (hs.shadow c) _ _
      · exact hs.shadow c'
    · rw [refSound, hcfg, hw.ref]
      exact RefModel.write_wf s.cfg (hs.ref c') c a v d

/-! ## The synchrony that WRITE_SYNCED leaves (R198) -/

/-- The control's field of codec c is x: in the shadow, and under the reference codec model in the register. -/
def fieldIs (t : State) (e : Control) (c : CodecId) (x : Nat) : Prop :=
  (∃ v, t.shadow c (enumDesc t.cfg e).addr = some v ∧ enumField t.cfg e v = x) ∧
  (t.ref.plugged = true → enumField t.cfg e ((t.ref.codec c).readReg t.cfg (enumDesc t.cfg e).addr) = x)

theorem fieldIs.congr (h : fieldIs t e c x) (hcfg : u.cfg = t.cfg := by rfl)
    (hcodec : u.codec c = t.codec c := by simp) (href : u.ref = t.ref := by rfl) : fieldIs u e c x := by
  rwa [fieldIs, State.shadow_congr hcfg c (by rw [hcodec]), hcfg, href]

/-- A write of the field answered `ok` sets it, and leaves the other codecs alone. -/
theorem fieldIs_afterWriteReg {c' : CodecId} {v : Nat} (ht : FilesSound t) (hd : d.ok = true)
    (hv : enumField t.cfg e v = x) (h : c' = c ∨ fieldIs t e c' x) :
    fieldIs (t.afterWriteReg c (enumDesc t.cfg e).addr v d) e c' x := by
  have hshadow := State.afterWriteReg_shadow t c c' (enumDesc t.cfg e).addr (enumDesc t.cfg e).addr v d (ht.shadow c)
  by_cases hc : c' = c
  · subst hc
    refine ⟨⟨v, by simpa [hd] using hshadow, hv⟩, fun hplug => ?_⟩
    rw [State.afterWriteReg_ref, RefModel.write_plugged] at hplug
    rw [State.afterWriteReg_ref, State.afterWriteReg_cfg, RefModel.write_codec_of_ok hplug hd,
      RefCodec.readReg_take_same _ _ (ht.ref c'), hv]
  · obtain ⟨⟨w, hw, hfield⟩, hreg⟩ := h.resolve_left hc
    refine ⟨⟨w, hshadow.trans (by rw [if_neg (fun hcc => hc hcc.1), hw]), hfield⟩, fun hplug => ?_⟩
    rw [State.afterWriteReg_ref, RefModel.write_plugged] at hplug
    rw [State.afterWriteReg_ref, State.afterWriteReg_cfg, RefModel.write_codec_ne _ _ _ _ _ hc]
    exact hreg hplug

/-- Where a WRITE_SYNCED of the value x is: at its start; at a codec, the value legal and the codecs before it written;
or at its end, which is OK only where all of them are. -/
inductive SyncWriting (cs : CodecSet) (e : Control) (x : Nat) (t : State) : Prop
  | start (busy : t.eng.busy = true) (phase : t.position.phase = .start)
  | body (busy : t.eng.busy = true) (phase : t.position.phase = .body) (legal : enumLegal e x = true)
      (elem : t.position.elem < (codecList cs).length)
      (written : ∀ c ∈ (codecList cs).take t.position.elem, fieldIs t e c x)
  | ended (idle : t.eng.busy = false) (done : t.win.code = .ok → ∀ c ∈ codecList cs, fieldIs t e c x)

theorem codecList_pos (cs : CodecSet) : 0 < (codecList cs).length := by
  cases cs <;> decide

/-- A codec that is written moves the body on. -/
theorem SyncWriting.nextElem (busy : t.eng.busy = true) (phase : t.position.phase = .body)
    (legal : enumLegal e x = true) (hall : ∀ c ∈ (codecList cs).take (t.position.elem + 1), fieldIs t e c x) :
    SyncWriting cs e x (t.nextElem (codecList cs).length State.finish) := by
  refine State.nextElem_elim (P := SyncWriting cs e x)
    (fun hmore => .body busy phase legal hmore fun c hc => (hall c hc).congr) fun hlast => .ended rfl fun _ c hc => ?_
  rw [List.take_of_length_le (by omega)] at hall
  exact (hall c hc).congr

/-- The step of one codec. -/
theorem SyncWriting.writeField (hok : configOk t.cfg = true) (ht : FilesSound t) (hx : t.eng.cur.arg0.toNat = x)
    (busy : t.eng.busy = true) (phase : t.position.phase = .body) (legal : enumLegal e x = true)
    (elem : t.position.elem < (codecList cs).length)
    (written : ∀ c ∈ (codecList cs).take t.position.elem, fieldIs t e c x) :
    SyncWriting cs e x (t.writeField cs e) := by
  subst hx
  refine State.atElem_elim (P := SyncWriting cs e _) (fun c hc => ?_) fun hpast =>
    absurd (List.getElem?_eq_none_iff.mp hpast) (Nat.not_le_of_lt elem)
  refine State.rmw_elim (P := SyncWriting cs e _) (fun _ => .ended rfl nofun)
    (fun _ _ env => .body busy phase legal elem fun c hc => (written c hc).congr) fun base _ d env => ?_
  cases hd : d.ok with
  | false => exact .ended rfl nofun
  | true =>
    rw [if_pos rfl, State.onCodec_id]
    have hfield := enumField_written hok base legal
    have hsound : FilesSound { t with env := env } := ⟨fun c => by simpa using ht.shadow c, ht.ref⟩
    exact .nextElem busy phase legal (forall_mem_take_succ hc
      (fun c' hc' => fieldIs_afterWriteReg hsound hd hfield (.inr (written c' hc').congr))
      (fieldIs_afterWriteReg hsound hd hfield (.inl rfl)))

theorem SyncWriting.step (h : SyncWriting cs e x t) (hok : configOk t.cfg = true) (ht : FilesSound t)
    (hx : t.eng.cur.arg0.toNat = x) (hbusy : t.eng.busy = true) (hexec : exec (.writeSynced cs e) t = .next u) :
    SyncWriting cs e x u := by
  cases h with
  | start _ phase =>
    rw [exec, execWriteSynced, State.byPhase_eq, phase, Host.Outcome.next.injEq, hx] at hexec
    subst hexec
    cases hlegal : enumLegal e x with
    | false => exact .ended rfl nofun
    | true =>
      exact State.enterBody_elim (P := SyncWriting cs e x) (fun h0 => absurd h0 (codecList_pos cs).ne')
        fun _ => .body hbusy rfl hlegal (codecList_pos cs) nofun
  | body _ phase legal elem written =>
    rw [execWriteSynced_body phase, Host.Outcome.next.injEq] at hexec
    exact hexec ▸ .writeField hok ht hx hbusy phase legal elem written
  | ended idle _ => exact nomatch hbusy.symm.trans idle

/-- Settles O55: `SyncWriting` holds at the issue, and every step keeps it. -/
theorem writeSyncedLeavesTheCodecsInSynchrony : Obligations.WriteSyncedLeavesTheCodecsInSynchrony := by
  unfold Obligations.WriteSyncedLeavesTheCodecsInSynchrony
  intro cs e s t m hok hs hshadow href hall hrun hend c hc
  obtain ⟨hcfg, -, -, hplug, hwriting⟩ := runExec_keeps
    (P := fun t => t.cfg = s.cfg ∧ t.eng.cur = s.eng.cur ∧ FilesSound t ∧ t.ref.plugged = s.ref.plugged ∧
      SyncWriting cs e s.eng.cur.arg0.toNat t)
    (fun x y hbusy ⟨hcfg, hcur, hfiles, hplug, hx⟩ hexec => by
      obtain ⟨hcfg', -, hcur', -⟩ := (exec_shape hexec).hostSideKept
      obtain ⟨hfiles', hplug'⟩ := exec_filesSound hexec hfiles
      exact ⟨hcfg'.trans hcfg, hcur'.trans hcur, hfiles', hplug'.trans hplug,
        hx.step (hcfg ▸ hok) hfiles (by rw [hcur]) hbusy hexec⟩)
    hrun ⟨rfl, rfl, ⟨fun c => (hshadow c).1, href⟩, rfl, .start hs.1 (congrArg Position.phase hs.position)⟩
  obtain ⟨hidle, -, hcode, -⟩ := hend
  cases hwriting with
  | start busy | body busy => exact nomatch busy.symm.trans hidle
  | ended _ done =>
    have hfield := done hcode c (hall ▸ (mem_presentCodecs s.cfg c).mpr hc)
    rwa [fieldIs, hcfg, hplug] at hfield

end Sys2Proof.Machine
end

section
/-! PROOFS. Where a sysclk association comes from (R32, R199), and what is refused without one (R132, R133). -/
namespace Sys2Proof.Machine

variable {i : Instr} {s t : State} {cs : CodecSet} {c : CodecId} {a v : Nat} {d : Answer}

/-- A write makes no association valid (R142). -/
theorem CodecState.sysclkValid_of_afterWrite {cfg : Config} {ok : Bool} {x : CodecState}
    (h : (CodecState.afterWrite cfg a v ok x).sysclkValid = true) : x.sysclkValid = true := by
  by_cases ha : a = cfg.addrFmtctl
  · cases ok
    · simp [CodecState.afterWrite, ha] at h
    · exact h
  · rwa [(CodecState.afterWrite_of_ne ha v ok x).2.2] at h

/-- What a command adds to its write makes an association valid only in SET_FMT_SYSCLK, on an answer `ok` (R188). -/
theorem sysclkValid_of_afterAnswer {ok : Bool} {x : CodecState} (h : (afterAnswer i s ok x).sysclkValid = true)
    (hx : x.sysclkValid = false) :
    (∃ cs, i = .setFmtSysclk cs) ∧ ok = true ∧ (afterAnswer i s ok x).sysclk = s.eng.cur.arg0 := by
  cases i with
  | setFmtSysclk cs =>
    cases ok with
    | true => exact ⟨⟨cs, rfl⟩, rfl, rfl⟩
    | false => exact nomatch hx.symm.trans h
  | powerDown cs => exact nomatch h
  | _ => exact nomatch hx.symm.trans h

/-- SET_FMT_SYSCLK writes ADDR_FMTCTL (R188). -/
theorem WroteRegister.addr_of_setFmtSysclk (h : WroteRegister (.setFmtSysclk cs) s t c a v d) :
    a = s.cfg.addrFmtctl := by
  have htarget := h.target
  unfold storeTarget at htarget
  rw [h.phase] at htarget
  obtain ⟨_, -, heq⟩ := Option.map_eq_some_iff.mp htarget
  exact (congrArg Prod.snd heq).symm

/-- An association becomes valid only by an `ok` write of SET_FMT_SYSCLK (R199). -/
theorem exec_sysclk_valid (h : exec i s = .next t) (hs : (s.codec c).sysclkValid = false)
    (ht : (t.codec c).sysclkValid = true) :
    ∃ cs v, i = .setFmtSysclk cs ∧ c ∈ codecList cs ∧ (t.codec c).sysclk = s.eng.cur.arg0 ∧
      recorded s t [.memWrite c s.cfg.addrFmtctl v true] := by
  rcases exec_registers h with ⟨-, -, hkept | ⟨_, c', -, -, -, -, hcleared⟩⟩ | ⟨c', a, v, d, hw⟩
  · rw [hkept] at ht
    exact nomatch hs.symm.trans ht
  · rw [hcleared] at ht
    split at ht
    · exact nomatch ht
    · exact nomatch hs.symm.trans ht
  · by_cases hc : c = c'
    · subst hc
      have hcodec := hw.codec c
      rw [if_pos rfl] at hcodec
      rw [hcodec] at ht ⊢
      have hinvalid : (CodecState.afterWrite s.cfg a v d.ok (s.codec c)).sysclkValid = false := by
        rw [← Bool.not_eq_true]
        exact fun hv => nomatch hs.symm.trans (CodecState.sysclkValid_of_afterWrite hv)
      obtain ⟨⟨cs, rfl⟩, hok, hrate⟩ := sysclkValid_of_afterAnswer ht hinvalid
      obtain rfl := hw.addr_of_setFmtSysclk
      exact ⟨cs, v, rfl, storeTarget_mem hw.target, hrate, hok ▸ hw.history⟩
    · rw [hw.codec, if_neg hc] at ht
      exact nomatch hs.symm.trans ht

/-- Settles O41: the origin is `exec_sysclk_valid`; without an association a check of the guard loops fails
(`HasGuards.refusedWithin`), unless POWER_UP is refused before them. -/
theorem sysclkComesOnlyFromSetFmtSysclk : Obligations.SysclkComesOnlyFromSetFmtSysclk := by
  unfold Obligations.SysclkComesOnlyFromSetFmtSysclk
  refine ⟨fun i s t c => exec_sysclk_valid, fun s c g hpresent hinvalid hs => ?_, fun s c cs hc hinvalid hs => ?_⟩
  · refine (hasGuards_enableAll g hs).refusedWithin
      ⟨_, List.mem_append_left _ (List.mem_map.mpr ⟨c, (mem_presentCodecs s.cfg c).mpr hpresent, rfl⟩),
        by simp [hinvalid]⟩ ?_
    rw [enableAll_stepBound]
    exact Nat.le_add_right _ _
  · by_cases hmaster : s.clk.masterClockEnabled = true
    · refine (hasGuards_powerUp cs hs hmaster).refusedWithin
        ⟨_, List.mem_append_right _ (List.mem_map.mpr ⟨c, hc, rfl⟩), by simp [hinvalid]⟩ ?_
      rw [stepBound_eq]
      exact Nat.le_add_right _ _
    · have hstep : completes (.powerUp cs) s fun t =>
          t.eng.busy = false ∧ t.win.code = .sequenceError ∧ onlyStatusChanged s t :=
        ⟨_, execPowerUp_notReady hs (by simpa using hmaster), rfl, rfl, s.raise_onlyStatusChanged _ _ _⟩
      have hidle : ∀ t : State, t.eng.busy = false ∧ t.win.code = .sequenceError ∧ onlyStatusChanged s t →
          t.eng.busy = false := fun _ h => h.1
      exact (hstep.ends (n := 0) hs.1 hidle).mono hidle (by rw [stepBound]; omega)

end Sys2Proof.Machine
end

section
/-! PROOFS. Where STATE_UNKNOWN comes from (R143, R256): a step ends with it only at a read-modify-write of a register
whose shadow is unknown. -/
namespace Sys2Proof.Machine

variable {i : Instr} {s t x : State} {cs : CodecSet} {c : CodecId} {a : Nat}

/-! ## The shared operations -/

/-- STATUS does not report STATE_UNKNOWN. -/
def stateKnown (t : State) : Prop := t.win.code ≠ .stateUnknown

namespace stateKnown

theorem raise {code : Code} {id addr : Nat} (h : code ≠ .stateUnknown := by decide) :
    stateKnown (s.raise code id addr) := h

theorem ifThenElse {p : Prop} [Decidable p] {u v : State} (hu : stateKnown u) (hv : stateKnown v) :
    stateKnown (if p then u else v) := by
  split
  · exact hu
  · exact hv

theorem enterBody (hs : stateKnown s) {n : Nat} : stateKnown (s.enterBody n) :=
  State.enterBody_elim (P := stateKnown) (fun _ => raise) fun _ => hs

theorem nextElem {n : Nat} {last : State → State} (hs : stateKnown s) (hlast : stateKnown (last s)) :
    stateKnown (s.nextElem n last) :=
  State.nextElem_elim (P := stateKnown) (fun _ => hs) fun _ => hlast

theorem atElem {α : Type} {l : List α} {f : α → State} (h : ∀ y, l[s.position.elem]? = some y → stateKnown (f y)) :
    stateKnown (s.atElem l f) :=
  State.atElem_elim (P := stateKnown) h fun _ => raise

theorem clkReq {op : ClkOp} {k : Clock} {cont : Bool → State → State} (hs : stateKnown s)
    (h : ∀ ok x, stateKnown x → stateKnown (cont ok x)) : stateKnown (s.clkReq op k cont) :=
  State.clkReq_elim (P := stateKnown) (fun _ => hs) fun ok _ => h ok _ hs

theorem startReq {op : ClkOp} {k : Clock} {code : Code} {onOk : State → State} (hs : stateKnown s)
    (h : ∀ x, stateKnown x → stateKnown (onOk x)) (hcode : code ≠ .stateUnknown := by decide) :
    stateKnown (s.startReq op k code onOk) :=
  State.startReq_elim (P := stateKnown) (fun _ => hs) (fun _ => h _ hs) fun _ => raise hcode

theorem teardownReq {op : ClkOp} {k : Clock} {done : State → State} (hs : stateKnown s)
    (h : ∀ x, stateKnown x → stateKnown (done x)) : stateKnown (s.teardownReq op k done) :=
  State.teardownReq_elim (P := stateKnown) (fun _ => hs) (fun _ => h _ hs) fun _ => h _ hs

theorem writeReg {v : Nat} {cont : Bool → State → State} (hs : stateKnown s)
    (h : ∀ ok x, stateKnown x → stateKnown (cont ok x)) : stateKnown (s.writeReg c a v cont) :=
  State.writeReg_elim (P := stateKnown) (fun _ => hs) fun d _ => h d.ok _ hs

/-- Only an unknown base makes a read-modify-write raise STATE_UNKNOWN (R143). -/
theorem rmw {clear set : Nat} {cont : Bool → State → State} (hs : stateKnown s) (hbase : s.shadow c a ≠ none)
    (h : ∀ ok x, stateKnown x → stateKnown (cont ok x)) : stateKnown (s.rmw c a clear set cont) :=
  State.rmw_elim (P := stateKnown) (fun hnone => absurd hnone hbase) (fun _ _ _ => hs) fun _ _ d _ => h d.ok _ hs

theorem readReg {cont : Nat → State → State} (hs : stateKnown s) (h : ∀ v x, stateKnown x → stateKnown (cont v x)) :
    stateKnown (s.readReg c a cont) :=
  State.readReg_elim (P := stateKnown) (fun _ => hs) (fun _ _ _ => h _ _ hs) fun _ _ => raise

theorem byPhase {checks body : State → State} (h : s.byPhase checks body = .next t) (start : stateKnown (checks s))
    (inBody : s.position.phase = .body → stateKnown (body s)) : stateKnown t :=
  State.byPhase_elim (P := stateKnown) h (fun _ => start) inBody fun _ => raise

/-- A guard that fails ends the command with SEQUENCE_ERROR (R145). -/
theorem byGuards {first : Option State} {gs : List GuardCheck} {n : Nat} {body : State → State}
    (h : s.byGuards first gs n body = .next t) (hs : stateKnown s) (refused : ∀ x, first = some x → stateKnown x)
    (inBody : s.position.phase = .body → stateKnown (body s)) : stateKnown t :=
  State.byGuards_elim (P := stateKnown) h (fun x _ => refused x)
    (fun _ _ => State.enterGuards_elim (P := stateKnown) (fun _ => hs.enterBody) fun _ => hs)
    (fun _ => State.guardStep_elim (P := stateKnown) (fun _ _ _ => raise) (fun _ _ _ _ => hs)
      (fun _ _ _ _ => hs.enterBody) fun _ => raise)
    inBody

end stateKnown

/-! ## The commands -/

/-- The step of command i at s is a read-modify-write of register a of codec c (R143, R188, R189, R194). -/
inductive AtRmw (s : State) : Instr → CodecId → Nat → Prop
  | setFmtSysclk {cs : CodecSet} {c : CodecId} (hp : s.position.phase = .body) (hc : currentCodec cs s = some c) :
      AtRmw s (.setFmtSysclk cs) c s.cfg.addrFmtctl
  | powerUp {cs : CodecSet} {c : CodecId} (hp : s.position.phase = .body) (hc : currentCodec cs s = some c) :
      AtRmw s (.powerUp cs) c s.cfg.addrFmtctl
  | writeSynced {cs : CodecSet} {d : Control} {c : CodecId} (hp : s.position.phase = .body)
      (hc : currentCodec cs s = some c) : AtRmw s (.writeSynced cs d) c (enumDesc s.cfg d).addr

section Commands

variable (hs : stateKnown s)
include hs

theorem execPrepareAll_stateKnown {g : Group} (h : exec (.prepareAll g) s = .next t) : stateKnown t := by
  rw [exec, execPrepareAll] at h
  exact .byPhase h hs.enterBody fun _ => .atElem fun _ _ => .ifThenElse (hs.nextElem .raise) <|
    hs.startReq fun _ hx => .nextElem hx .raise

theorem execEnableAll_stateKnown {g : Group} (h : exec (.enableAll g) s = .next t) : stateKnown t := by
  rw [exec, execEnableAll] at h
  exact .byGuards h hs (fun _ hx => nomatch hx) fun _ => .atElem fun _ _ => .ifThenElse (hs.nextElem .raise) <|
    hs.startReq fun _ hx => .nextElem hx .raise

theorem execDisableAll_stateKnown {g : Group} (h : exec (.disableAll g) s = .next t) : stateKnown t := by
  rw [exec, execDisableAll] at h
  exact .byPhase h (.enterBody (s := s.goTo _) hs) fun _ => .atElem fun _ _ =>
    .ifThenElse (hs.teardownReq fun _ hx => .nextElem (.ifThenElse hx hx) .raise) (hs.nextElem .raise)

theorem execUnprepareAll_stateKnown {g : Group} (h : exec (.unprepareAll g) s = .next t) : stateKnown t := by
  rw [exec, execUnprepareAll] at h
  exact .byGuards h hs (fun _ hx => nomatch hx) fun _ => .atElem fun _ _ =>
    .ifThenElse (hs.teardownReq fun _ hx => .nextElem hx .raise) (hs.nextElem .raise)

theorem execSelectMaster_stateKnown (h : exec .selectMaster s = .next t) : stateKnown t := by
  rw [exec, execSelectMaster] at h
  refine .byPhase h ?_ fun _ => ?_
  · split
    · exact .raise
    · exact .ifThenElse .raise hs.enterBody
  · split
    · exact .raise
    · exact hs.clkReq fun _ _ hx => .ifThenElse hx .raise
    · exact hs.startReq fun _ hx => hx
    · exact hs.startReq fun _ hx => hx
    · exact State.awaitAnswer_elim (P := stateKnown) (fun _ => hs) fun _ _ => .raise

theorem execReleaseMaster_stateKnown (h : exec .releaseMaster s = .next t) : stateKnown t := by
  rw [exec, execReleaseMaster] at h
  refine .byPhase h (.enterBody (s := (s.goTo _).onClk _) hs) fun _ => ?_
  split
  · exact .ifThenElse (hs.teardownReq fun _ hx => .ifThenElse hx hx) hs
  · exact .ifThenElse (hs.teardownReq fun _ _ => .raise) .raise

theorem execApplyStartup_stateKnown (h : exec (.applyStartup cs) s = .next t) : stateKnown t := by
  rw [exec, execApplyStartup] at h
  refine .byGuards h hs (fun _ hx => nomatch hx) fun _ => .atElem fun _ _ => ?_
  split
  · exact hs
  · split
    · exact hs.nextElem .raise
    · exact hs.writeReg fun _ _ hx => .ifThenElse (.ifThenElse hx (hx.nextElem .raise)) .raise

theorem execSetFmtSysclk_stateKnown (h : exec (.setFmtSysclk cs) s = .next t)
    (hknown : ∀ c a, AtRmw s (.setFmtSysclk cs) c a → s.shadow c a ≠ none) : stateKnown t := by
  rw [exec, execSetFmtSysclk] at h
  refine .byGuards h hs (fun x hx => ?_) fun hp => .atElem fun c hc =>
    hs.rmw (hknown c _ (.setFmtSysclk hp hc)) fun _ _ hx => .ifThenElse (.nextElem hx .raise) .raise
  split at hx
  · exact Option.some.inj hx ▸ .raise
  · split at hx
    · exact Option.some.inj hx ▸ .raise
    · exact nomatch hx

theorem execPowerUp_stateKnown (h : exec (.powerUp cs) s = .next t)
    (hknown : ∀ c a, AtRmw s (.powerUp cs) c a → s.shadow c a ≠ none) : stateKnown t := by
  rw [exec, execPowerUp] at h
  refine .byGuards h hs (fun x hx => ?_) fun hp => .atElem fun c hc =>
    hs.rmw (hknown c _ (.powerUp hp hc)) fun _ _ hx => .ifThenElse (hx.nextElem .raise) .raise
  split at hx
  · exact Option.some.inj hx ▸ .raise
  · exact nomatch hx

theorem execPowerDown_stateKnown (h : exec (.powerDown cs) s = .next t) : stateKnown t := by
  rw [exec, execPowerDown] at h
  exact .byPhase h hs.enterBody fun _ => .atElem fun _ _ => hs.writeReg fun _ _ hx =>
    .nextElem (.ifThenElse hx hx) (State.endPowerDown_elim (P := stateKnown) (fun _ _ => .raise) fun _ => .raise)

theorem execSetVolume_stateKnown {ch : Channel} (h : exec (.setVolume c ch) s = .next t) : stateKnown t := by
  rw [exec, execSetVolume] at h
  refine .byPhase h (.ifThenElse .raise (.ifThenElse .raise hs.enterBody)) fun _ => ?_
  split
  · exact hs.writeReg fun _ _ hx => .ifThenElse hx .raise
  · exact hs.writeReg fun _ _ _ => .ifThenElse .raise .raise

theorem execGetVolume_stateKnown {ch : Channel} (h : exec (.getVolume c ch) s = .next t) : stateKnown t := by
  rw [exec, execGetVolume] at h
  refine .byPhase h (.ifThenElse .raise hs.enterBody) fun _ => ?_
  split
  · exact hs.readReg fun _ _ hx => hx
  · exact hs.readReg fun _ _ _ => .raise

theorem execReadSynced_stateKnown {d : Control} (h : exec (.readSynced cs d) s = .next t) : stateKnown t := by
  rw [exec, execReadSynced] at h
  refine .byPhase h hs.enterBody fun _ => ?_
  split
  · exact hs.readReg fun _ _ hx => .nextElem hx .raise
  · exact State.compareSynced_elim (P := stateKnown) (fun _ _ _ _ => .raise) (fun _ _ _ _ => hs.nextElem .raise)
      fun _ => .raise

theorem execWriteSynced_stateKnown {d : Control} (h : exec (.writeSynced cs d) s = .next t)
    (hknown : ∀ c a, AtRmw s (.writeSynced cs d) c a → s.shadow c a ≠ none) : stateKnown t := by
  rw [exec, execWriteSynced] at h
  exact .byPhase h (.ifThenElse .raise hs.enterBody) fun hp => .atElem fun c hc =>
    hs.rmw (hknown c _ (.writeSynced hp hc)) fun _ _ hx => .ifThenElse (hx.nextElem .raise) .raise

/-- A step whose read-modify-write, if it makes one, has a known base does not report STATE_UNKNOWN (R143). -/
theorem exec_stateKnown (h : exec i s = .next t) (hknown : ∀ c a, AtRmw s i c a → s.shadow c a ≠ none) :
    stateKnown t := by
  cases i with
  | prepareAll g => exact execPrepareAll_stateKnown hs h
  | enableAll g => exact execEnableAll_stateKnown hs h
  | disableAll g => exact execDisableAll_stateKnown hs h
  | unprepareAll g => exact execUnprepareAll_stateKnown hs h
  | selectMaster => exact execSelectMaster_stateKnown hs h
  | releaseMaster => exact execReleaseMaster_stateKnown hs h
  | applyStartup cs => exact execApplyStartup_stateKnown hs h
  | setFmtSysclk cs => exact execSetFmtSysclk_stateKnown hs h hknown
  | powerUp cs => exact execPowerUp_stateKnown hs h hknown
  | powerDown cs => exact execPowerDown_stateKnown hs h
  | setVolume c ch => exact execSetVolume_stateKnown hs h
  | getVolume c ch => exact execGetVolume_stateKnown hs h
  | readSynced cs d => exact execReadSynced_stateKnown hs h
  | writeSynced cs d => exact execWriteSynced_stateKnown hs h hknown

/-- A step that newly reports STATE_UNKNOWN is a read-modify-write on an unknown base (R143). -/
theorem exec_stateUnknown (h : exec i s = .next t) (ht : t.win.code = .stateUnknown) :
    ∃ c a, AtRmw s i c a ∧ s.shadow c a = none := by
  by_contra hno
  exact exec_stateKnown hs h (fun c a hat hnone => hno ⟨c, a, hat, hnone⟩) ht

end Commands

/-! ## In a reachable state (R256) -/

/-- A codec whose power state is known has a known format-control shadow (R48 item 8). -/
theorem Inv.fmtctl_known (hinv : Inv s) (hpd : (s.codec c).pd = .down ∨ (s.codec c).pd = .up) :
    s.shadow c s.cfg.addrFmtctl ≠ none := by
  obtain ⟨hdown, hup⟩ := hinv.power c
  rcases hpd with hpd | hpd
  · obtain ⟨v, hv, -⟩ := hdown hpd
    exact hv ▸ nofun
  · obtain ⟨v, hv, -⟩ := hup hpd
    exact hv ▸ nofun

/-- Settles O43: only a read-modify-write on an unknown base reports STATE_UNKNOWN (`exec_stateUnknown`). The codecs of
SET_FMT_SYSCLK are Down and those of POWER_UP have a sysclk, so that their base is known (`Inv.fmtctl_known`). -/
theorem stateUnknownComesOnlyFromWriteSynced : Obligations.StateUnknownComesOnlyFromWriteSynced := by
  unfold Obligations.StateUnknownComesOnlyFromWriteSynced
  intro i s t hinv _ hruns hcode h hunknown
  obtain ⟨c, a, hat, hnone⟩ := exec_stateUnknown (by rw [stateKnown, hcode]; decide) h hunknown
  cases hat with
  | setFmtSysclk hp hc =>
    obtain ⟨-, -, hdown⟩ := hinv.inBody hruns hp
    exact absurd hnone (hinv.fmtctl_known (.inl (hdown c (mem_drop_of_currentCodec hc))))
  | powerUp hp hc =>
    obtain ⟨-, -, hvalid⟩ := hinv.inBody hruns hp
    obtain ⟨hpd, -⟩ := (hinv.sysclk c).1 (hvalid c (mem_drop_of_currentCodec hc))
    exact absurd hnone (hinv.fmtctl_known hpd)
  | writeSynced hp hc =>
    rw [execWriteSynced_body hp, Host.Outcome.next.injEq, State.writeField, State.rmwElem_unknown hc hnone] at h
    subst h
    exact ⟨_, _, c, rfl, mem_of_currentCodec hc, hnone, s.raise_endedWith _ _ _, (List.append_nil _).symm⟩

end Sys2Proof.Machine
end

section
/-! PROOFS. The block right after reset (R281, R284): an idle block with nothing held and nothing left for its host
stays as it is, and the engine's turn at an illegal word ends the command. -/
namespace Sys2Proof.Machine

variable {s : State} {e : Illegal}

/-- The host has nothing to do: its move changes nothing (log 20). -/
theorem State.hostStep_of_no_action (hheld : s.held = none) (hact : s.host.actions = []) : s.hostStep = .next s := by
  simp only [State.hostStep, hheld, hact]

/-- A busy block whose engine has the turn makes one engine step, whatever its word. -/
theorem step_eq_engineStep (hatt : s.attached = true) (hok : configOk s.cfg = true) (hbusy : s.eng.busy = true)
    (hturn : s.pickTurn.1 = false) : step s = engineStep s.pickTurn.2 := by
  simp [step, hatt, hok, hbusy, hturn]

/-- An illegal word ends with ILLEGAL_COMMAND at the engine's turn (R124, R253). -/
theorem step_giveTurnToEngine_of_illegal (hatt : s.attached = true) (hok : configOk s.cfg = true)
    (hbusy : s.eng.busy = true) (hillegal : s.command = .error e) :
    ∃ t, step s.giveTurnToEngine = .next t ∧ t.endedWith .illegalCommand 0 0 := by
  have hstep : step s.giveTurnToEngine = engineStep s :=
    step_eq_engineStep (s := s.giveTurnToEngine) hatt hok hbusy rfl
  exact ⟨s.endIllegal, hstep.trans (engineStep_of_illegal hillegal), s.raise_endedWith _ _ _⟩

/-- The word 0 is illegal: no row of the opcode table has OPC 0 (R97, R100). -/
theorem decode_zero (n : NumCodecs) : decode n 0 = .error .unassignedOpcode := by
  have hrow : opcodeRows.find? (·.selects 0) = none := by decide
  have hopc : opcAssigned 0 = false := by decide
  rw [decode, hrow, hopc]
  rfl

/-- Settles O13: at reset the host has nothing to do (`State.hostStep_of_no_action`), and the word 0 is illegal
(`decode_zero`). -/
theorem resetBlockWaitsForTheFirstCommand : Obligations.ResetBlockWaitsForTheFirstCommand := by
  unfold Obligations.ResetBlockWaitsForTheFirstCommand
  intro cfg hok
  have hwaits : step (State.resetWith cfg) = .next (State.resetWith cfg) := by
    rw [step_of_idle (s := State.resetWith cfg) rfl hok rfl, State.hostStep_of_no_action rfl rfl]
  have hillegal : ((State.resetWith cfg).issue 0).command = .error .unassignedOpcode := decode_zero cfg.numCodecs
  exact ⟨hwaits, rfl, ⟨_, decode_zero cfg.numCodecs⟩,
    step_giveTurnToEngine_of_illegal (s := (State.resetWith cfg).issue 0) rfl hok rfl hillegal⟩

end Sys2Proof.Machine
end
